-- ==== Sys2Proof/Word.lean ====
section
/-! DEFINITION. The two widths of the core (00_scope.md R6). How bytes make a word stands in Decode.lean. -/

namespace Sys2Proof

/-- 00_scope.md R6: `byte` means width 8. -/
abbrev Byte := BitVec 8

/-- 00_scope.md R6: `word` means width 16. -/
abbrev Word := BitVec 16

end Sys2Proof
end

