-- ==== Sys2Proof/Config.lean ====
section
/-! DEFINITION. The implementation parameters of 00_scope.md R5, as plain data.
They are arguments of the model: `State` carries them, so that a statement over every state holds for every setting (log 1).
Their defaults stand in Decode.lean (`Config.default`), the settings the spec admits in WellFormed.lean.
No value of this core is left without a rule (spec/93_implementation_defined.md), so there is no opaque free value here. -/

namespace Sys2Proof

/-- R5 `INDIRECT_POINTER_BYTES`, a parameter in 1, 2 (41_addressing.md R128). -/
inductive PointerBytes where
  | one
  | two
  deriving DecidableEq, Repr

/-- R5. The configuration is fixed before launch and does not change afterwards (70_reset_and_hazards.md R263). -/
structure Config where
  /-- `MEM_SIZE`, the capacity of Memory in bytes (20_memory.md R50). -/
  memSize : Nat
  /-- `OPCODE_SET`, the recognised bytes of the opcode table, in rising order (30_encoding.md R84; log 12). -/
  opcodeSet : List Byte
  /-- `DIAG_ZP_OPCODE`, absent or a byte (46_diagnostic.md R220). -/
  diagZpOpcode : Option Byte
  /-- `DIAG_A_OPCODE`, absent or a byte (46_diagnostic.md R221). -/
  diagAOpcode : Option Byte
  /-- `INDIRECT_POINTER_BYTES` (41_addressing.md R128). -/
  pointerBytes : PointerBytes
  /-- `P_RESET`, P at Cpu construction (10_state.md R23). -/
  pReset : Byte
  deriving DecidableEq, Repr

end Sys2Proof
end

