-- ==== Sys2Proof/Syntax.lean ====
section
/-! DEFINITION. The instructions: one constructor for each row of spec/opcode_table.json, with its operand assembled as 30_encoding.md R83 says.
`v` is an immediate byte, `b` a zero-page address byte, `w` a 16-bit base address. -/

namespace Sys2Proof

/-- The 47 rows of the opcode table: the 45 opcodes of 30_encoding.md R84 and the two diagnostic opcodes of 46_diagnostic.md.
An unrecognised byte is no row of the table and no instruction here (40_dispatch.md R106; log 11). -/
inductive Instr where
  /-- `LDA #$nn` (42_load.md R141). -/
  | ldaImm (v : Byte)
  /-- `LDA $nn` (42_load.md R142). -/
  | ldaZp (b : Byte)
  /-- `LDA $nn,X` (42_load.md R143). -/
  | ldaZpx (b : Byte)
  /-- `LDA $hhll` (42_load.md R144). -/
  | ldaAbs (w : Word)
  /-- `LDA $hhll,X` (42_load.md R145). -/
  | ldaAbsx (w : Word)
  /-- `LDA $hhll,Y` (42_load.md R146). -/
  | ldaAbsy (w : Word)
  /-- `LDA ($nn,X)` (42_load.md R147). -/
  | ldaIndx (b : Byte)
  /-- `LDA ($nn),Y` (42_load.md R148). -/
  | ldaIndy (b : Byte)
  /-- `LDX #$nn` (42_load.md R149). -/
  | ldxImm (v : Byte)
  /-- `LDX $nn` (42_load.md R150). -/
  | ldxZp (b : Byte)
  /-- `LDX $nn,Y` (42_load.md R151). -/
  | ldxZpy (b : Byte)
  /-- `LDX $hhll` (42_load.md R152). -/
  | ldxAbs (w : Word)
  /-- `LDX $hhll,Y` (42_load.md R153). -/
  | ldxAbsy (w : Word)
  /-- `LDY #$nn` (42_load.md R154). -/
  | ldyImm (v : Byte)
  /-- `LDY $nn` (42_load.md R155). -/
  | ldyZp (b : Byte)
  /-- `LDY $nn,X` (42_load.md R156). -/
  | ldyZpx (b : Byte)
  /-- `LDY $hhll` (42_load.md R157). -/
  | ldyAbs (w : Word)
  /-- `LDY $hhll,X` (42_load.md R158). -/
  | ldyAbsx (w : Word)
  /-- `STA $nn` (43_store.md R171). -/
  | staZp (b : Byte)
  /-- `STA $nn,X` (43_store.md R172). -/
  | staZpx (b : Byte)
  /-- `STA $hhll` (43_store.md R173). -/
  | staAbs (w : Word)
  /-- `STA $hhll,X` (43_store.md R174). -/
  | staAbsx (w : Word)
  /-- `STA $hhll,Y` (43_store.md R175). -/
  | staAbsy (w : Word)
  /-- `STA ($nn,X)` (43_store.md R176). -/
  | staIndx (b : Byte)
  /-- `STA ($nn),Y` (43_store.md R177). -/
  | staIndy (b : Byte)
  /-- `STX $nn` (43_store.md R178). -/
  | stxZp (b : Byte)
  /-- `STX $nn,Y` (43_store.md R179). -/
  | stxZpy (b : Byte)
  /-- `STX $hhll` (43_store.md R180). -/
  | stxAbs (w : Word)
  /-- `STY $nn` (43_store.md R181). -/
  | styZp (b : Byte)
  /-- `STY $nn,X` (43_store.md R182). -/
  | styZpx (b : Byte)
  /-- `STY $hhll` (43_store.md R183). -/
  | styAbs (w : Word)
  /-- `TAX` (44_transfer.md R191). -/
  | tax
  /-- `TAY` (44_transfer.md R192). -/
  | tay
  /-- `TSX` (44_transfer.md R193). -/
  | tsx
  /-- `TXA` (44_transfer.md R194). -/
  | txa
  /-- `TXS` (44_transfer.md R195). -/
  | txs
  /-- `TYA` (44_transfer.md R196). -/
  | tya
  /-- `ADC #$nn` (45_adc.md R202). -/
  | adcImm (v : Byte)
  /-- `ADC $nn` (45_adc.md R203). -/
  | adcZp (b : Byte)
  /-- `ADC $nn,X` (45_adc.md R204). -/
  | adcZpx (b : Byte)
  /-- `ADC $hhll` (45_adc.md R205). -/
  | adcAbs (w : Word)
  /-- `ADC $hhll,X` (45_adc.md R206). -/
  | adcAbsx (w : Word)
  /-- `ADC $hhll,Y` (45_adc.md R207). -/
  | adcAbsy (w : Word)
  /-- `ADC ($nn,X)` (45_adc.md R208). -/
  | adcIndx (b : Byte)
  /-- `ADC ($nn),Y` (45_adc.md R209). -/
  | adcIndy (b : Byte)
  /-- `DIAGZP $nn` (46_diagnostic.md R220). -/
  | diagzp (b : Byte)
  /-- `DIAGA` (46_diagnostic.md R221). -/
  | diaga
  deriving DecidableEq, Repr

end Sys2Proof
end

