-- ==== Sys2Proof/Decode.lean ====
section
/-! DEFINITION. The opcode table, the decoder and the encoder (spec/30_encoding.md R80 to R86). -/

namespace Sys2Proof

/-- 00_scope.md R6: `zext_16(b)` is the byte `b` read as a 16-bit value. -/
def zext16 (b : Byte) : Word := b.setWidth 16

/-- R6: `sext_N(v)` reads `v` as two's complement of its width and widens it to N bits. No rule of the spec uses it. -/
def sext (n : Nat) (v : Byte) : BitVec n := v.signExtend n

/-- 30_encoding.md R83, 20_memory.md R58: `lo + 256 * hi`, the little-endian 16-bit value of two bytes. -/
def wordOf (lo hi : Byte) : Word := hi ++ lo

/-- The low byte of a word, the first in little-endian order (R58). -/
def lowByte (w : Word) : Byte := w.setWidth 8

/-- The high byte of a word, the second in little-endian order (R58). -/
def highByte (w : Word) : Byte := (w >>> 8).setWidth 8

/-- The shape of an instruction by the format of its row (R80): F1 takes no operand byte, F2 one, F3 two (a 16-bit value). -/
inductive Form where
  | f1 (i : Instr)
  | f2 (mk : Byte → Instr)
  | f3 (mk : Word → Instr)

/-- R81, R82: the number of operand bytes n of a form. -/
def Form.operandBytes : Form → Nat
  | .f1 _ => 0
  | .f2 _ => 1
  | .f3 _ => 2

/-- R84: the 45 recognised opcodes of the default configuration, by rising byte. -/
def tableOpcodes : List Byte :=
  [0x61#8, 0x65#8, 0x69#8, 0x6D#8, 0x71#8, 0x75#8, 0x79#8, 0x7D#8, 0x81#8] ++
  [0x84#8, 0x85#8, 0x86#8, 0x8A#8, 0x8C#8, 0x8D#8, 0x8E#8, 0x91#8, 0x94#8] ++
  [0x95#8, 0x96#8, 0x98#8, 0x99#8, 0x9A#8, 0x9D#8, 0xA0#8, 0xA1#8, 0xA2#8] ++
  [0xA4#8, 0xA5#8, 0xA6#8, 0xA8#8, 0xA9#8, 0xAA#8, 0xAC#8, 0xAD#8, 0xAE#8] ++
  [0xB1#8, 0xB4#8, 0xB5#8, 0xB6#8, 0xB9#8, 0xBA#8, 0xBC#8, 0xBD#8, 0xBE#8]

/-- R84: the opcode map, byte by byte. Forty-two of the bytes are the spec's general knowledge (D14; log 12). -/
def tableForm (op : Byte) : Option Form :=
  match op with
  | 0xA9#8 => some (.f2 .ldaImm)
  | 0xA5#8 => some (.f2 .ldaZp)
  | 0xB5#8 => some (.f2 .ldaZpx)
  | 0xAD#8 => some (.f3 .ldaAbs)
  | 0xBD#8 => some (.f3 .ldaAbsx)
  | 0xB9#8 => some (.f3 .ldaAbsy)
  | 0xA1#8 => some (.f2 .ldaIndx)
  | 0xB1#8 => some (.f2 .ldaIndy)
  | 0xA2#8 => some (.f2 .ldxImm)
  | 0xA6#8 => some (.f2 .ldxZp)
  | 0xB6#8 => some (.f2 .ldxZpy)
  | 0xAE#8 => some (.f3 .ldxAbs)
  | 0xBE#8 => some (.f3 .ldxAbsy)
  | 0xA0#8 => some (.f2 .ldyImm)
  | 0xA4#8 => some (.f2 .ldyZp)
  | 0xB4#8 => some (.f2 .ldyZpx)
  | 0xAC#8 => some (.f3 .ldyAbs)
  | 0xBC#8 => some (.f3 .ldyAbsx)
  | 0x85#8 => some (.f2 .staZp)
  | 0x95#8 => some (.f2 .staZpx)
  | 0x8D#8 => some (.f3 .staAbs)
  | 0x9D#8 => some (.f3 .staAbsx)
  | 0x99#8 => some (.f3 .staAbsy)
  | 0x81#8 => some (.f2 .staIndx)
  | 0x91#8 => some (.f2 .staIndy)
  | 0x86#8 => some (.f2 .stxZp)
  | 0x96#8 => some (.f2 .stxZpy)
  | 0x8E#8 => some (.f3 .stxAbs)
  | 0x84#8 => some (.f2 .styZp)
  | 0x94#8 => some (.f2 .styZpx)
  | 0x8C#8 => some (.f3 .styAbs)
  | 0xAA#8 => some (.f1 .tax)
  | 0xA8#8 => some (.f1 .tay)
  | 0xBA#8 => some (.f1 .tsx)
  | 0x8A#8 => some (.f1 .txa)
  | 0x9A#8 => some (.f1 .txs)
  | 0x98#8 => some (.f1 .tya)
  | 0x69#8 => some (.f2 .adcImm)
  | 0x65#8 => some (.f2 .adcZp)
  | 0x75#8 => some (.f2 .adcZpx)
  | 0x6D#8 => some (.f3 .adcAbs)
  | 0x7D#8 => some (.f3 .adcAbsx)
  | 0x79#8 => some (.f3 .adcAbsy)
  | 0x61#8 => some (.f2 .adcIndx)
  | 0x71#8 => some (.f2 .adcIndy)
  | _ => none

/-- 00_scope.md R5: every parameter at its default. -/
def Config.default : Config where
  memSize := 65536
  opcodeSet := tableOpcodes
  diagZpOpcode := none
  diagAOpcode := none
  pointerBytes := .one
  pReset := 0x00#8

/-- R85, `decode(op)`: what the configuration makes of an opcode byte, or none where the byte is unrecognised.
The opcode byte and the configuration alone decide (R82). -/
def recognise (cfg : Config) (op : Byte) : Option Form :=
  if op ∈ cfg.opcodeSet then tableForm op
  else if cfg.diagZpOpcode = some op then some (.f2 .diagzp)
  else if cfg.diagAOpcode = some op then some (.f1 .diaga)
  else none

/-- What the decoder reads at the head of the rest of the code stream (40_dispatch.md R103 to R107). -/
inductive Decoded where
  /-- A recognised opcode with all its operand bytes, and the bytes after it. -/
  | instr (i : Instr) (rest : List Byte)
  /-- A byte the configuration does not recognise: a one-byte no-operation (R106). -/
  | unrecognised (op : Byte)
  /-- A recognised opcode whose operand bytes pass the end of the stream (R107). -/
  | truncated (op : Byte)
  /-- No byte is left: the stream has ended (R103). -/
  | endOfCode
  deriving DecidableEq, Repr

/-- R83, R107: read the operand bytes of a form. An absolute operand is little-endian. -/
def Form.read (f : Form) (op : Byte) (operands : List Byte) : Decoded :=
  match f, operands with
  | .f1 i, rest => .instr i rest
  | .f2 mk, b1 :: rest => .instr (mk b1) rest
  | .f2 _, [] => .truncated op
  | .f3 mk, b1 :: b2 :: rest => .instr (mk (wordOf b1 b2)) rest
  | .f3 _, [_] => .truncated op
  | .f3 _, [] => .truncated op

/-- The decoder, total on any bytes. -/
def decode (cfg : Config) (bytes : List Byte) : Decoded :=
  match bytes with
  | [] => .endOfCode
  | op :: operands =>
    match recognise cfg op with
    | none => .unrecognised op
    | some f => f.read op operands

/-- R84, R220, R221: the opcode byte of an instruction. The diagnostic instructions have one only where the configuration gives it. -/
def Instr.opcode (cfg : Config) (i : Instr) : Option Byte :=
  match i with
  | .ldaImm _ => some 0xA9#8
  | .ldaZp _ => some 0xA5#8
  | .ldaZpx _ => some 0xB5#8
  | .ldaAbs _ => some 0xAD#8
  | .ldaAbsx _ => some 0xBD#8
  | .ldaAbsy _ => some 0xB9#8
  | .ldaIndx _ => some 0xA1#8
  | .ldaIndy _ => some 0xB1#8
  | .ldxImm _ => some 0xA2#8
  | .ldxZp _ => some 0xA6#8
  | .ldxZpy _ => some 0xB6#8
  | .ldxAbs _ => some 0xAE#8
  | .ldxAbsy _ => some 0xBE#8
  | .ldyImm _ => some 0xA0#8
  | .ldyZp _ => some 0xA4#8
  | .ldyZpx _ => some 0xB4#8
  | .ldyAbs _ => some 0xAC#8
  | .ldyAbsx _ => some 0xBC#8
  | .staZp _ => some 0x85#8
  | .staZpx _ => some 0x95#8
  | .staAbs _ => some 0x8D#8
  | .staAbsx _ => some 0x9D#8
  | .staAbsy _ => some 0x99#8
  | .staIndx _ => some 0x81#8
  | .staIndy _ => some 0x91#8
  | .stxZp _ => some 0x86#8
  | .stxZpy _ => some 0x96#8
  | .stxAbs _ => some 0x8E#8
  | .styZp _ => some 0x84#8
  | .styZpx _ => some 0x94#8
  | .styAbs _ => some 0x8C#8
  | .tax => some 0xAA#8
  | .tay => some 0xA8#8
  | .tsx => some 0xBA#8
  | .txa => some 0x8A#8
  | .txs => some 0x9A#8
  | .tya => some 0x98#8
  | .adcImm _ => some 0x69#8
  | .adcZp _ => some 0x65#8
  | .adcZpx _ => some 0x75#8
  | .adcAbs _ => some 0x6D#8
  | .adcAbsx _ => some 0x7D#8
  | .adcAbsy _ => some 0x79#8
  | .adcIndx _ => some 0x61#8
  | .adcIndy _ => some 0x71#8
  | .diagzp _ => cfg.diagZpOpcode
  | .diaga => cfg.diagAOpcode

/-- R80, R83: the operand bytes of an instruction, in stream order (low byte of an address first). -/
def Instr.operands (i : Instr) : List Byte :=
  match i with
  | .ldaImm v => [v]
  | .ldaZp b => [b]
  | .ldaZpx b => [b]
  | .ldaAbs w => [lowByte w, highByte w]
  | .ldaAbsx w => [lowByte w, highByte w]
  | .ldaAbsy w => [lowByte w, highByte w]
  | .ldaIndx b => [b]
  | .ldaIndy b => [b]
  | .ldxImm v => [v]
  | .ldxZp b => [b]
  | .ldxZpy b => [b]
  | .ldxAbs w => [lowByte w, highByte w]
  | .ldxAbsy w => [lowByte w, highByte w]
  | .ldyImm v => [v]
  | .ldyZp b => [b]
  | .ldyZpx b => [b]
  | .ldyAbs w => [lowByte w, highByte w]
  | .ldyAbsx w => [lowByte w, highByte w]
  | .staZp b => [b]
  | .staZpx b => [b]
  | .staAbs w => [lowByte w, highByte w]
  | .staAbsx w => [lowByte w, highByte w]
  | .staAbsy w => [lowByte w, highByte w]
  | .staIndx b => [b]
  | .staIndy b => [b]
  | .stxZp b => [b]
  | .stxZpy b => [b]
  | .stxAbs w => [lowByte w, highByte w]
  | .styZp b => [b]
  | .styZpx b => [b]
  | .styAbs w => [lowByte w, highByte w]
  | .tax => []
  | .tay => []
  | .tsx => []
  | .txa => []
  | .txs => []
  | .tya => []
  | .adcImm v => [v]
  | .adcZp b => [b]
  | .adcZpx b => [b]
  | .adcAbs w => [lowByte w, highByte w]
  | .adcAbsx w => [lowByte w, highByte w]
  | .adcAbsy w => [lowByte w, highByte w]
  | .adcIndx b => [b]
  | .adcIndy b => [b]
  | .diagzp b => [b]
  | .diaga => []

/-- The encoder: the bytes of an instruction, none where the configuration gives the instruction no opcode byte. -/
def encode (cfg : Config) (i : Instr) : Option (List Byte) :=
  (i.opcode cfg).map (fun op => op :: i.operands)

/-- The three bytes of a table word: bits 7 to 0 are the first byte of the stream. No instruction is longer (R80). -/
def tableBytes (nbits w : Nat) : List Byte :=
  let v := w % 2 ^ nbits
  [BitVec.ofNat 8 v, BitVec.ofNat 8 (v / 256), BitVec.ofNat 8 (v / 65536)]

/-- The instruction the decoder reads, in the default configuration, from a word numbered as spec/opcode_table.json numbers it.
The diagnostic opcodes are absent by default (R85), so no word gives them (log 13). -/
def decodeTableWord (nbits w : Nat) : Option Instr :=
  match decode Config.default (tableBytes nbits w) with
  | .instr i _ => some i
  | .unrecognised _ => none
  | .truncated _ => none
  | .endOfCode => none

end Sys2Proof
end

