-- ==== Sys2Proof/Machine/State.lean ====
section
/-! DEFINITION. The state of the core (spec/10_state.md section 1) as plain data, the reasons a step can stop, and construction (reset). -/

namespace Sys2Proof.Machine

/-- 60_exceptions.md R240: whether a faulting access was a read or a write. -/
inductive Access where
  | read
  | write
  deriving DecidableEq, Repr

/-- R240: the two faults, each with the information of its own. -/
inductive FaultKind where
  /-- Cause 1: the operand bytes of a recognised opcode pass the end of the code stream (40_dispatch.md R107). -/
  | truncatedInstruction
  /-- Cause 2: a data access at an address at or above MEM_SIZE (20_memory.md R56, R57). -/
  | addressOutOfRange (addr : Nat) (access : Access)
  deriving DecidableEq, Repr

/-- R240: the spec's cause codes. -/
def FaultKind.code : FaultKind → Nat
  | .truncatedInstruction => 1
  | .addressOutOfRange _ _ => 2

/-- 10_state.md R30: the fault kind with its information, the cursor of the faulting instruction and its opcode byte. -/
structure FaultRecord where
  kind : FaultKind
  cursor : Nat
  opcode : Byte
  deriving DecidableEq, Repr

/-- 40_dispatch.md R100, R103, R110: where the run port stands. -/
inductive Phase where
  /-- No Run since construction. -/
  | idle
  /-- A Run is executing. -/
  | running
  /-- The last Run completed with `Done`. -/
  | done
  /-- The last Run completed with `Faulted`, whose record is the fault mark. -/
  | faulted
  deriving DecidableEq, Repr

/-- Memory in canonical form: the cells that do not hold what an unlisted cell reads as (`unlistedByte`, Ops.lean), addresses strictly rising. -/
abbrev Memory := List Host.Cell

/-- The Cpu, its Memory, and the Run it executes. -/
structure State where
  /-- The parameters of the machine (00_scope.md R5), which no step writes (70_reset_and_hazards.md R263; log 1). -/
  cfg : Config
  /-- A, the accumulator (10_state.md R20). -/
  regA : Byte
  /-- X, an index register (R20). -/
  regX : Byte
  /-- Y, an index register (R20). -/
  regY : Byte
  /-- S, a transfer source and target and nothing else (R20). -/
  regS : Byte
  /-- P, the flag register: C bit 0, Z bit 1, V bit 6, N bit 7, bits 2 to 5 unused and kept (R22). -/
  regP : Byte
  /-- The PC field, which no instruction, Run or fault reads or writes (R26). -/
  pcField : Word
  /-- Memory (20_memory.md R50). -/
  mem : Memory
  /-- The output trace, oldest first (R29). -/
  out : List Byte
  /-- The fault mark (R30). -/
  fault : Option FaultRecord
  /-- Where the run port stands (40_dispatch.md R110). -/
  phase : Phase
  /-- The code stream of the current Run, or of the last one when none executes (20_memory.md R53; log 9). -/
  code : List Byte
  /-- The cursor of the current Run, or of the last one when none executes (R27; log 9). -/
  cursor : Nat
  /-- The model's own field: the Run call the host has made and the core has not yet taken (40_dispatch.md R100; log 5). -/
  runCall : Option (List Byte)
  deriving DecidableEq, Repr

/-- Why a step of this core stops. Faults of instructions are no stops: they are taken (`State.takeFault`, Ops.lean; log 6). -/
inductive Fault where
  /-- Raised by `step` alone, in a state whose fault mark is set and whose host asks for no further Run: the last Run completed
  with `Faulted(r)` and the Cpu is faulted for good (60_exceptions.md R241, R242). Safe: nothing is claimed to happen after it. -/
  | runFaulted (r : FaultRecord)
  deriving DecidableEq, Repr

/-- Why the model refuses. -/
inductive Refusal where
  /-- Raised by an arm of `exec` that has no meaning yet; no arm of this model is one. Safe. -/
  | notModelled (mnemonic : String)
  /-- Raised by `hostRun` for a Run call on a Cpu whose fault mark is set, and by `step` in a state where such a call waits
  (60_exceptions.md R242). Safe: the spec refuses the Run. -/
  | runAfterFault
  /-- Raised by `step` and `launch`: the configuration is none the spec admits (30_encoding.md R85, 40_dispatch.md R110). Safe. -/
  | badConfiguration
  /-- Raised by `launch`: two Cpus are bound to one Memory (20_memory.md R67). Safe. -/
  | sharedMemory
  /-- Raised by `launch`: a list that is no canonical Memory of MEM_SIZE cells. Safe: it stands for no Memory. -/
  | notAMemory
  /-- Raised by the host's operations (HostPort.lean): the host acts between the call of a Run and its return (20_memory.md R68). Safe. -/
  | hostDuringRun
  /-- Raised by the host's operations: an address at or above MEM_SIZE, where no cell is (20_memory.md R50). Safe. -/
  | hostAddress
  deriving DecidableEq, Repr

/-- 70_reset_and_hazards.md R260: Cpu construction, bound to a Memory. Code and cursor have no Run yet (log 9). -/
def State.construct (cfg : Config) (mem : Memory) : State where
  cfg := cfg
  regA := 0x00#8
  regX := 0x00#8
  regY := 0x00#8
  regS := 0x00#8
  regP := cfg.pReset
  pcField := 0x0000#16
  mem := mem
  out := []
  fault := none
  phase := .idle
  code := []
  cursor := 0
  runCall := none

/-- The machine right after reset: a Cpu constructed on a fresh Memory (R261) in the default configuration (00_scope.md R5). -/
def State.reset : State := State.construct Config.default []

end Sys2Proof.Machine
end

