-- ==== Sys2Proof/WellFormed.lean ====
section
/-! DEFINITION. Which configurations the model admits (00_scope.md R5, 30_encoding.md R85) and which instructions a configuration has.
Operand bytes need no check: every byte and every 16-bit address is a legal operand (R83). -/

namespace Sys2Proof

/-- R5 and R85, as one check: 256 ≤ MEM_SIZE ≤ 65536; OPCODE_SET holds only bytes of the table, in rising order without repeats
(log 12); each diagnostic opcode lies outside it; the two differ when both are present. -/
def Config.wellFormed (cfg : Config) : Bool :=
  decide (256 ≤ cfg.memSize) && decide (cfg.memSize ≤ 65536) &&
  cfg.opcodeSet.isSublist tableOpcodes &&
  cfg.opcodeSet.all (fun op => decide (cfg.diagZpOpcode ≠ some op)) &&
  cfg.opcodeSet.all (fun op => decide (cfg.diagAOpcode ≠ some op)) &&
  (decide (cfg.diagZpOpcode = none) || decide (cfg.diagZpOpcode ≠ cfg.diagAOpcode))

/-- The two diagnostic instructions, whose opcode bytes are parameters (46_diagnostic.md R220, R221). -/
def Instr.isDiagnostic (i : Instr) : Bool :=
  match i with
  | .diagzp _ | .diaga => true
  | .ldaImm _ | .ldaZp _ | .ldaZpx _ | .ldaAbs _ | .ldaAbsx _ | .ldaAbsy _ | .ldaIndx _ | .ldaIndy _ | .ldxImm _ |
    .ldxZp _ | .ldxZpy _ | .ldxAbs _ | .ldxAbsy _ | .ldyImm _ | .ldyZp _ | .ldyZpx _ | .ldyAbs _ | .ldyAbsx _ | .staZp _ |
    .staZpx _ | .staAbs _ | .staAbsx _ | .staAbsy _ | .staIndx _ | .staIndy _ | .stxZp _ | .stxZpy _ | .stxAbs _ |
    .styZp _ | .styZpx _ | .styAbs _ | .tax | .tay | .tsx | .txa | .txs | .tya | .adcImm _ | .adcZp _ | .adcZpx _ |
    .adcAbs _ | .adcAbsx _ | .adcAbsy _ | .adcIndx _ | .adcIndy _ => false

/-- An instruction the configuration has: an opcode of the table that OPCODE_SET recognises (R84), or a diagnostic instruction the
configuration gives an opcode byte (R85). -/
def Instr.wellFormed (cfg : Config) (i : Instr) : Bool :=
  match i.opcode cfg with
  | none => false
  | some op => i.isDiagnostic || decide (op ∈ cfg.opcodeSet)

end Sys2Proof
end

