-- ==== Sys2Proof/Machine/Ops.lean ====
section
/-! DEFINITION. The named operations over Memory, registers, the cursor and the trace; taking a fault; the steps of a Run that are no instruction.
There is no return from a fault in this core (60_exceptions.md R245), so none stands here. -/

namespace Sys2Proof.Machine

/-- What a cell of a fresh Memory holds (20_memory.md R51, 70_reset_and_hazards.md R261; D10, log 4). -/
def unlistedByte : Byte := 0x00#8

/-- The byte at an address. -/
def Memory.read (m : Memory) (addr : Nat) : Byte :=
  match m with
  | [] => unlistedByte
  | (k, v) :: rest => if k = addr then v else Memory.read rest addr

/-- Put one cell before a list of cells, unless it holds what an unlisted cell reads as. -/
def Memory.put (addr : Nat) (v : Byte) (rest : Memory) : Memory :=
  if v = unlistedByte then rest else (addr, v) :: rest

/-- Memory with one cell written, in canonical form again. -/
def Memory.write (m : Memory) (addr : Nat) (v : Byte) : Memory :=
  match m with
  | [] => Memory.put addr v []
  | (k, b) :: rest =>
    if addr < k then Memory.put addr v ((k, b) :: rest)
    else if addr = k then Memory.put addr v rest
    else (k, b) :: Memory.write rest addr v

/-- The canonical form: addresses strictly rising, and no cell listed that holds `unlistedByte`. -/
def Memory.wf (m : Memory) : Bool :=
  decide (m.Pairwise (fun c d => c.1 < d.1)) && m.all (fun c => decide (c.2 ≠ unlistedByte))

/-- Every listed cell exists in a Memory of `size` cells (20_memory.md R50). -/
def Memory.within (m : Memory) (size : Nat) : Bool :=
  m.all (fun c => decide (c.1 < size))

/-- 20_memory.md R56: `MemRead(addr, 1)`. -/
def State.memRead (s : State) (addr : Nat) : Except FaultKind Byte :=
  if s.cfg.memSize ≤ addr then .error (.addressOutOfRange addr .read) else .ok (s.mem.read addr)

/-- R57: `MemWrite(addr, 1, v)`. The range check comes before the write. -/
def State.memWrite (s : State) (addr : Nat) (v : Byte) : Except FaultKind State :=
  if s.cfg.memSize ≤ addr then .error (.addressOutOfRange addr .write)
  else .ok { s with mem := s.mem.write addr v }

/-- 10_state.md R20: the register file. -/
inductive Reg where
  | a
  | x
  | y
  | s
  deriving DecidableEq, Repr

/-- Read a register. -/
def State.reg (s : State) (r : Reg) : Byte :=
  match r with
  | .a => s.regA
  | .x => s.regX
  | .y => s.regY
  | .s => s.regS

/-- Write a register (00_scope.md R7, `A <- v`). -/
def State.setReg (s : State) (r : Reg) (v : Byte) : State :=
  match r with
  | .a => { s with regA := v }
  | .x => { s with regX := v }
  | .y => { s with regY := v }
  | .s => { s with regS := v }

/-- Write P whole. The flag rules of Flags.lean give the value, which keeps bits 2 to 5 (10_state.md R22). -/
def State.setP (s : State) (p : Byte) : State := { s with regP := p }

/-- 10_state.md R27, 40_dispatch.md R107: past the opcode byte and its n operand bytes. -/
def State.advance (s : State) (n : Nat) : State := { s with cursor := s.cursor + n + 1 }

/-- 10_state.md R29: `Emit(v)`. The port never refuses and never blocks (40_dispatch.md R101). -/
def State.emit (s : State) (v : Byte) : State := { s with out := s.out ++ [v] }

/-- 40_dispatch.md R104: `Code(cursor)`, the opcode byte of the instruction that executes.
The 0 stands where the cursor is at no byte, and then no instruction executes (log 10). -/
def State.opcodeByte (s : State) : Byte := (s.code[s.cursor]?).getD 0x00#8

/-- 60_exceptions.md R241: taking a fault. The mark becomes the record of R240 and the Run ends `Faulted`; nothing else changes,
for every check of an instruction comes before its first write (R243). -/
def State.takeFault (s : State) (k : FaultKind) : State :=
  { s with fault := some { kind := k, cursor := s.cursor, opcode := s.opcodeByte }, phase := .faulted }

/-- The end of an instruction that may fault: its result, or the fault taken in the state it began in. -/
def State.complete (s : State) (result : Except FaultKind State) : Host.Outcome State Fault Refusal :=
  match result with
  | .ok t => .next t
  | .error k => .next (s.takeFault k)

/-- 40_dispatch.md R100: the host has called `Run(code)`, and the call waits on the port until a step takes it (log 5). -/
def State.callRun (s : State) (code : List Byte) : State := { s with runCall := some code }

/-- 40_dispatch.md R102: the start of a Run. Only the cursor is initialised (70_reset_and_hazards.md R262). -/
def State.startRun (s : State) (code : List Byte) : State :=
  { s with phase := .running, code := code, cursor := 0, runCall := none }

/-- 40_dispatch.md R103, 46_diagnostic.md R222: the trailing dump, and the Run completes `Done`. -/
def State.finishRun (s : State) : State := { s.emit s.regA with phase := .done }

/-- 40_dispatch.md R106: an unrecognised byte is skipped, whatever it is. -/
def State.skipByte (s : State) : State := s.advance 0

/-- 40_dispatch.md R104, R105: fetch at the cursor and decode. -/
def State.fetch (s : State) : Decoded := decode s.cfg (s.code.drop s.cursor)

/-- R102 and 60_exceptions.md R242, when no Run executes: take the Run call that waits, if there is one. Without one the core
waits (log 7), or, once faulted, has stopped (log 6). -/
def State.betweenRuns (s : State) : Host.Outcome State Fault Refusal :=
  match s.fault, s.runCall with
  | none, none => .next s
  | none, some code => .next (s.startRun code)
  | some r, none => .fault (.runFaulted r)
  | some _, some _ => .refused .runAfterFault

end Sys2Proof.Machine
end

