-- ==== Sys2Proof/Machine/Flags.lean ====
section
/-! DEFINITION. The flag register and the ALU flag logic (spec/10_state.md R22 to R25, spec/45_adc.md R200). -/

namespace Sys2Proof.Machine

/-- R22: the four flags this core uses. -/
inductive Flag where
  | c
  | z
  | v
  | n
  deriving DecidableEq, Repr

/-- R22: the bit of P a flag is. -/
def Flag.bit : Flag → Nat
  | .c => 0
  | .z => 1
  | .v => 6
  | .n => 7

/-- 00_scope.md R7: `P.C` and the like. -/
def flagOf (p : Byte) (f : Flag) : Bool := p.getLsbD f.bit

/-- 00_scope.md R7: `P.C <- b` writes that single bit and leaves the other seven. -/
def setFlag (p : Byte) (f : Flag) (b : Bool) : Byte :=
  if b then p ||| (1#8 <<< f.bit) else p &&& ~~~(1#8 <<< f.bit)

/-- A flag of the state. -/
def State.flag (s : State) (f : Flag) : Bool := flagOf s.regP f

/-- R24: `isNegative(v)`, bit 7. -/
def isNegative (v : Byte) : Bool := v.getLsbD 7

/-- R24: `setZN(v)`. -/
def setZN (p v : Byte) : Byte := setFlag (setFlag p .z (decide (v = 0#8))) .n (isNegative v)

/-- 45_adc.md R200: `sum <- a + v + P.C`, a natural number from 0 to 511. There is no decimal mode (R201). -/
def adcSum (p a v : Byte) : Nat := a.toNat + v.toNat + (flagOf p .c).toNat

/-- R200: `sum8 <- sum mod 256`. -/
def adcResult (p a v : Byte) : Byte := BitVec.ofNat 8 (adcSum p a v)

/-- R200: C from the sum, Z from the OLD accumulator (90_conflicts.md C1), V from the old accumulator's sign against the sum's
(C2), N from the sum (D21). -/
def adcFlags (p a v : Byte) : Byte :=
  setFlag
    (setFlag
      (setFlag
        (setFlag p .c (decide (255 < adcSum p a v)))
        .z (decide (a = 0#8)))
      .v (isNegative a != isNegative (adcResult p a v)))
    .n (isNegative (adcResult p a v))

end Sys2Proof.Machine
end

