-- ==== Sys2Proof/Machine/Operands.lean ====
section
/-! DEFINITION. The addressing-mode resolver (spec/41_addressing.md), every mode, with the operand bytes already assembled by the decoder. -/

namespace Sys2Proof.Machine

/-- R122 to R130: the modes that resolve to an effective address. `b` is a zero-page address byte, `w` a 16-bit base. -/
inductive AddrMode where
  | zp (b : Byte)
  | zpx (b : Byte)
  | zpy (b : Byte)
  | abs (w : Word)
  | absx (w : Word)
  | absy (w : Word)
  | indx (b : Byte)
  | indy (b : Byte)
  deriving DecidableEq, Repr

/-- The operand of an instruction that reads a byte: immediate (R121) or at an address. -/
inductive Operand where
  | imm (v : Byte)
  | mem (m : AddrMode)
  deriving DecidableEq, Repr

/-- 30_encoding.md R81: the number n of operand bytes of a mode. -/
def AddrMode.operandBytes : AddrMode → Nat
  | .zp _ => 1
  | .zpx _ => 1
  | .zpy _ => 1
  | .abs _ => 2
  | .absx _ => 2
  | .absy _ => 2
  | .indx _ => 1
  | .indy _ => 1

/-- R81, with n = 1 for the immediate mode. -/
def Operand.operandBytes : Operand → Nat
  | .imm _ => 1
  | .mem m => m.operandBytes

/-- R120: what `Resolve(mode)` returns. -/
inductive Resolved where
  | value (v : Byte)
  | addr (ea : Nat)
  deriving DecidableEq, Repr

/-- R128: `PtrRead(p)`. A 2-byte pointer is read low byte first, its high byte at `(p + 1) mod 256`. -/
def State.ptrRead (s : State) (p : Byte) : Except FaultKind Nat :=
  match s.cfg.pointerBytes with
  | .one =>
    match s.memRead p.toNat with
    | .error k => .error k
    | .ok lo => .ok lo.toNat
  | .two =>
    match s.memRead p.toNat with
    | .error k => .error k
    | .ok lo =>
      match s.memRead (p + 1#8).toNat with
      | .error k => .error k
      | .ok hi => .ok (lo.toNat + 256 * hi.toNat)

/-- R122 to R130: the effective address. Only the zero-page indexed modes and the pointer location of (zp,X) wrap, to 8 bits;
every other sum is a natural number (D18, D19; log 16). -/
def State.effectiveAddress (s : State) (m : AddrMode) : Except FaultKind Nat :=
  match m with
  | .zp b => .ok b.toNat
  | .zpx b => .ok (b + s.regX).toNat
  | .zpy b => .ok (b + s.regY).toNat
  | .abs w => .ok w.toNat
  | .absx w => .ok (w.toNat + s.regX.toNat)
  | .absy w => .ok (w.toNat + s.regY.toNat)
  | .indx b => s.ptrRead (b + s.regX)
  | .indy b =>
    match s.ptrRead b with
    | .error k => .error k
    | .ok ptr => .ok (ptr + s.regY.toNat)

/-- R120, R121: `Resolve(mode)`. -/
def State.resolve (s : State) (o : Operand) : Except FaultKind Resolved :=
  match o with
  | .imm v => .ok (.value v)
  | .mem m =>
    match s.effectiveAddress m with
    | .error k => .error k
    | .ok ea => .ok (.addr ea)

/-- R120: `OperandValue(r)`, for loads, ADC and DIAGZP. -/
def State.operandValue (s : State) (o : Operand) : Except FaultKind Byte :=
  match s.resolve o with
  | .error k => .error k
  | .ok (.value v) => .ok v
  | .ok (.addr ea) => s.memRead ea

/-- R120: `StoreTo(r, v)`, for stores, whose operand is never a value. -/
def State.storeTo (s : State) (m : AddrMode) (v : Byte) : Except FaultKind State :=
  match s.effectiveAddress m with
  | .error k => .error k
  | .ok ea => s.memWrite ea v

end Sys2Proof.Machine
end

