-- ==== Sys2Proof/Machine/Adc.lean ====
section
/-! DEFINITION. Add with carry (spec/45_adc.md). -/

namespace Sys2Proof.Machine

/-- R200: `ADD(v)`. Every flag comes from the old A and the sum (00_scope.md R9). -/
def State.add (s : State) (v : Byte) : State :=
  (s.setReg .a (adcResult s.regP s.regA v)).setP (adcFlags s.regP s.regA v)

/-- R202 to R209: read the operand, then `ADD`. A fault of the operand leaves A and P as they were. -/
def adc (o : Operand) (s : State) : Host.Outcome State Fault Refusal :=
  s.complete (match s.operandValue o with
    | .error k => .error k
    | .ok v => .ok ((s.add v).advance o.operandBytes))

/-- 45_adc.md R202, `ADC #$nn`. -/
def execAdcImm (v : Byte) (s : State) : Host.Outcome State Fault Refusal :=
  adc (.imm v) s

/-- 45_adc.md R203, `ADC $nn`. -/
def execAdcZp (b : Byte) (s : State) : Host.Outcome State Fault Refusal :=
  adc (.mem (.zp b)) s

/-- 45_adc.md R204, `ADC $nn,X`. -/
def execAdcZpx (b : Byte) (s : State) : Host.Outcome State Fault Refusal :=
  adc (.mem (.zpx b)) s

/-- 45_adc.md R205, `ADC $hhll`. -/
def execAdcAbs (w : Word) (s : State) : Host.Outcome State Fault Refusal :=
  adc (.mem (.abs w)) s

/-- 45_adc.md R206, `ADC $hhll,X`. -/
def execAdcAbsx (w : Word) (s : State) : Host.Outcome State Fault Refusal :=
  adc (.mem (.absx w)) s

/-- 45_adc.md R207, `ADC $hhll,Y`. -/
def execAdcAbsy (w : Word) (s : State) : Host.Outcome State Fault Refusal :=
  adc (.mem (.absy w)) s

/-- 45_adc.md R208, `ADC ($nn,X)`. -/
def execAdcIndx (b : Byte) (s : State) : Host.Outcome State Fault Refusal :=
  adc (.mem (.indx b)) s

/-- 45_adc.md R209, `ADC ($nn),Y`. -/
def execAdcIndy (b : Byte) (s : State) : Host.Outcome State Fault Refusal :=
  adc (.mem (.indy b)) s

end Sys2Proof.Machine
end

