-- ==== Sys2Proof/Machine/Diag.lean ====
section
/-! DEFINITION. The diagnostic opcodes (spec/46_diagnostic.md). The trailing dump of R222 is `State.finishRun` in Ops.lean. -/

namespace Sys2Proof.Machine

/-- R220: read a zero-page cell and emit it. No register, flag or cell is written (R223). -/
def emitCell (b : Byte) (s : State) : Host.Outcome State Fault Refusal :=
  s.complete (match s.operandValue (.mem (.zp b)) with
    | .error k => .error k
    | .ok v => .ok ((s.emit v).advance 1))

/-- 46_diagnostic.md R220, `DIAGZP $nn`. -/
def execDiagzp (b : Byte) (s : State) : Host.Outcome State Fault Refusal :=
  emitCell b s

/-- 46_diagnostic.md R221, `DIAGA`. -/
def execDiaga (s : State) : Host.Outcome State Fault Refusal :=
  .next ((s.emit s.regA).advance 0)

end Sys2Proof.Machine
end

