-- ==== Sys2Proof/Machine/Load.lean ====
section
/-! DEFINITION. The load family: LDA, LDX, LDY (spec/42_load.md). -/

namespace Sys2Proof.Machine

/-- R140, the effect: register, Z and N, then past the instruction (40_dispatch.md R107). -/
def State.loaded (s : State) (r : Reg) (v : Byte) (n : Nat) : State :=
  ((s.setReg r v).setP (setZN s.regP v)).advance n

/-- R140: `LOAD(r, mode)`. A fault of the operand leaves the register and P as they were (60_exceptions.md R243). -/
def load (r : Reg) (o : Operand) (s : State) : Host.Outcome State Fault Refusal :=
  s.complete (match s.operandValue o with
    | .error k => .error k
    | .ok v => .ok (s.loaded r v o.operandBytes))

/-- 42_load.md R141, `LDA #$nn`. -/
def execLdaImm (v : Byte) (s : State) : Host.Outcome State Fault Refusal :=
  load .a (.imm v) s

/-- 42_load.md R142, `LDA $nn`. -/
def execLdaZp (b : Byte) (s : State) : Host.Outcome State Fault Refusal :=
  load .a (.mem (.zp b)) s

/-- 42_load.md R143, `LDA $nn,X`. -/
def execLdaZpx (b : Byte) (s : State) : Host.Outcome State Fault Refusal :=
  load .a (.mem (.zpx b)) s

/-- 42_load.md R144, `LDA $hhll`. -/
def execLdaAbs (w : Word) (s : State) : Host.Outcome State Fault Refusal :=
  load .a (.mem (.abs w)) s

/-- 42_load.md R145, `LDA $hhll,X`. -/
def execLdaAbsx (w : Word) (s : State) : Host.Outcome State Fault Refusal :=
  load .a (.mem (.absx w)) s

/-- 42_load.md R146, `LDA $hhll,Y`. -/
def execLdaAbsy (w : Word) (s : State) : Host.Outcome State Fault Refusal :=
  load .a (.mem (.absy w)) s

/-- 42_load.md R147, `LDA ($nn,X)`. -/
def execLdaIndx (b : Byte) (s : State) : Host.Outcome State Fault Refusal :=
  load .a (.mem (.indx b)) s

/-- 42_load.md R148, `LDA ($nn),Y`. -/
def execLdaIndy (b : Byte) (s : State) : Host.Outcome State Fault Refusal :=
  load .a (.mem (.indy b)) s

/-- 42_load.md R149, `LDX #$nn`. -/
def execLdxImm (v : Byte) (s : State) : Host.Outcome State Fault Refusal :=
  load .x (.imm v) s

/-- 42_load.md R150, `LDX $nn`. -/
def execLdxZp (b : Byte) (s : State) : Host.Outcome State Fault Refusal :=
  load .x (.mem (.zp b)) s

/-- 42_load.md R151, `LDX $nn,Y`. -/
def execLdxZpy (b : Byte) (s : State) : Host.Outcome State Fault Refusal :=
  load .x (.mem (.zpy b)) s

/-- 42_load.md R152, `LDX $hhll`. -/
def execLdxAbs (w : Word) (s : State) : Host.Outcome State Fault Refusal :=
  load .x (.mem (.abs w)) s

/-- 42_load.md R153, `LDX $hhll,Y`. -/
def execLdxAbsy (w : Word) (s : State) : Host.Outcome State Fault Refusal :=
  load .x (.mem (.absy w)) s

/-- 42_load.md R154, `LDY #$nn`. -/
def execLdyImm (v : Byte) (s : State) : Host.Outcome State Fault Refusal :=
  load .y (.imm v) s

/-- 42_load.md R155, `LDY $nn`. -/
def execLdyZp (b : Byte) (s : State) : Host.Outcome State Fault Refusal :=
  load .y (.mem (.zp b)) s

/-- 42_load.md R156, `LDY $nn,X`. -/
def execLdyZpx (b : Byte) (s : State) : Host.Outcome State Fault Refusal :=
  load .y (.mem (.zpx b)) s

/-- 42_load.md R157, `LDY $hhll`. -/
def execLdyAbs (w : Word) (s : State) : Host.Outcome State Fault Refusal :=
  load .y (.mem (.abs w)) s

/-- 42_load.md R158, `LDY $hhll,X`. -/
def execLdyAbsx (w : Word) (s : State) : Host.Outcome State Fault Refusal :=
  load .y (.mem (.absx w)) s

end Sys2Proof.Machine
end

