-- ==== Sys2Proof/Machine/Store.lean ====
section
/-! DEFINITION. The store family: STA, STX, STY (spec/43_store.md). -/

namespace Sys2Proof.Machine

/-- R170: `STORE(r, mode)`. One cell is written, and no register or flag. -/
def store (r : Reg) (m : AddrMode) (s : State) : Host.Outcome State Fault Refusal :=
  s.complete (match s.storeTo m (s.reg r) with
    | .error k => .error k
    | .ok t => .ok (t.advance m.operandBytes))

/-- 43_store.md R171, `STA $nn`. -/
def execStaZp (b : Byte) (s : State) : Host.Outcome State Fault Refusal :=
  store .a (.zp b) s

/-- 43_store.md R172, `STA $nn,X`. -/
def execStaZpx (b : Byte) (s : State) : Host.Outcome State Fault Refusal :=
  store .a (.zpx b) s

/-- 43_store.md R173, `STA $hhll`. -/
def execStaAbs (w : Word) (s : State) : Host.Outcome State Fault Refusal :=
  store .a (.abs w) s

/-- 43_store.md R174, `STA $hhll,X`. -/
def execStaAbsx (w : Word) (s : State) : Host.Outcome State Fault Refusal :=
  store .a (.absx w) s

/-- 43_store.md R175, `STA $hhll,Y`. -/
def execStaAbsy (w : Word) (s : State) : Host.Outcome State Fault Refusal :=
  store .a (.absy w) s

/-- 43_store.md R176, `STA ($nn,X)`. -/
def execStaIndx (b : Byte) (s : State) : Host.Outcome State Fault Refusal :=
  store .a (.indx b) s

/-- 43_store.md R177, `STA ($nn),Y`. -/
def execStaIndy (b : Byte) (s : State) : Host.Outcome State Fault Refusal :=
  store .a (.indy b) s

/-- 43_store.md R178, `STX $nn`. -/
def execStxZp (b : Byte) (s : State) : Host.Outcome State Fault Refusal :=
  store .x (.zp b) s

/-- 43_store.md R179, `STX $nn,Y`. -/
def execStxZpy (b : Byte) (s : State) : Host.Outcome State Fault Refusal :=
  store .x (.zpy b) s

/-- 43_store.md R180, `STX $hhll`. -/
def execStxAbs (w : Word) (s : State) : Host.Outcome State Fault Refusal :=
  store .x (.abs w) s

/-- 43_store.md R181, `STY $nn`. -/
def execStyZp (b : Byte) (s : State) : Host.Outcome State Fault Refusal :=
  store .y (.zp b) s

/-- 43_store.md R182, `STY $nn,X`. -/
def execStyZpx (b : Byte) (s : State) : Host.Outcome State Fault Refusal :=
  store .y (.zpx b) s

/-- 43_store.md R183, `STY $hhll`. -/
def execStyAbs (w : Word) (s : State) : Host.Outcome State Fault Refusal :=
  store .y (.abs w) s

end Sys2Proof.Machine
end

