-- ==== Sys2Proof/Machine/Transfer.lean ====
section
/-! DEFINITION. The register transfers: TAX, TAY, TSX, TXA, TXS, TYA (spec/44_transfer.md). -/

namespace Sys2Proof.Machine

/-- R190: `TRANSFER(s, d)`, for every one of the six, TXS among them (90_conflicts.md C5). No operand byte, no exception. -/
def transfer (src dst : Reg) (s : State) : Host.Outcome State Fault Refusal :=
  .next (((s.setReg dst (s.reg src)).setP (setZN s.regP (s.reg src))).advance 0)

/-- 44_transfer.md R191, `TAX`. -/
def execTax (s : State) : Host.Outcome State Fault Refusal :=
  transfer .a .x s

/-- 44_transfer.md R192, `TAY`. -/
def execTay (s : State) : Host.Outcome State Fault Refusal :=
  transfer .a .y s

/-- 44_transfer.md R193, `TSX`. -/
def execTsx (s : State) : Host.Outcome State Fault Refusal :=
  transfer .s .x s

/-- 44_transfer.md R194, `TXA`. -/
def execTxa (s : State) : Host.Outcome State Fault Refusal :=
  transfer .x .a s

/-- 44_transfer.md R195, `TXS`. -/
def execTxs (s : State) : Host.Outcome State Fault Refusal :=
  transfer .x .s s

/-- 44_transfer.md R196, `TYA`. -/
def execTya (s : State) : Host.Outcome State Fault Refusal :=
  transfer .y .a s

end Sys2Proof.Machine
end

