-- ==== Sys2Proof/Machine/Step.lean ====
section
/-! DEFINITION. One step of the core (spec/40_dispatch.md R102 to R107). -/

namespace Sys2Proof.Machine

/-- R103 to R107: one step of a Run. -/
def stepRun (s : State) : Host.Outcome State Fault Refusal :=
  match s.fetch with
  | .endOfCode => .next s.finishRun
  | .unrecognised _ => .next s.skipByte
  | .truncated _ => .next (s.takeFault .truncatedInstruction)
  | .instr i _ => exec i s

/-- One step. A configuration the spec does not admit is refused (30_encoding.md R85, 40_dispatch.md R110). A Run that executes takes
one instruction, one skipped byte or its end; otherwise the core takes the Run call that waits, if there is one. -/
def step (s : State) : Host.Outcome State Fault Refusal :=
  if s.cfg.wellFormed then
    match s.phase with
    | .running => stepRun s
    | .idle => s.betweenRuns
    | .done => s.betweenRuns
    | .faulted => s.betweenRuns
  else .refused .badConfiguration

/-- `s` with a Run executing whose code is the bytes of a table word, so that the next step runs that instruction first
(log 5, log 21). It stands for the host's call `Run(code)` and the start of that Run. -/
def State.withFetchWord (s : State) (nbits w : Nat) : State :=
  { s with phase := .running, code := tableBytes nbits w, cursor := 0 }

end Sys2Proof.Machine
end

