-- ==== Sys2Proof/Machine/HostPort.lean ====
section
/-! DEFINITION. What the host does to the core between Runs (spec/20_memory.md R51, R67, R68; spec/40_dispatch.md R100; spec/70_reset_and_hazards.md R263).
These are no steps of the core (log 22). -/

namespace Sys2Proof.Machine

/-- R68: the host may act only before a Run is invoked or after it returns: no Run executes and none that was called waits. -/
def State.hostMayAct (s : State) : Bool := decide (s.phase ≠ .running) && decide (s.runCall = none)

/-- R51, R68: the host reads a cell between Runs. -/
def hostRead (s : State) (addr : Nat) : Except Refusal Byte :=
  if s.hostMayAct then
    if addr < s.cfg.memSize then .ok (s.mem.read addr) else .error .hostAddress
  else .error .hostDuringRun

/-- R51, R68: the host writes a cell between Runs. -/
def hostWrite (s : State) (addr : Nat) (v : Byte) : Except Refusal State :=
  if s.hostMayAct then
    if addr < s.cfg.memSize then .ok { s with mem := s.mem.write addr v } else .error .hostAddress
  else .error .hostDuringRun

/-- R68, R100, R102: the host calls `Run(code)` between Runs. The call waits on the port, and the next step takes it (log 5).
A Cpu whose fault mark is set refuses it and stays as it is (60_exceptions.md R242). -/
def hostRun (s : State) (code : List Byte) : Except Refusal State :=
  if s.hostMayAct then
    match s.fault with
    | none => .ok (s.callRun code)
    | some _ => .error .runAfterFault
  else .error .hostDuringRun

/-- R67, R250, R263: launch Cpus, each bound to the Memory named by a handle. Two Cpus bound to one handle are refused; Cpus with
Memories of their own are separate machines. -/
def launch (cfg : Config) (cpus : List (Nat × Memory)) : Except Refusal (List State) :=
  if cfg.wellFormed then
    if (cpus.map Prod.fst).Nodup then
      if cpus.all (fun c => c.2.wf && c.2.within cfg.memSize) then .ok (cpus.map (fun c => State.construct cfg c.2))
      else .error .notAMemory
    else .error .sharedMemory
  else .error .badConfiguration

end Sys2Proof.Machine
end

