-- ==== Sys2Proof/Safety.lean ====
section
/-! DEFINITION. The terms the statements use: what a state reached by a run looks like, runs of steps, and the effects the spec's rules give. -/

namespace Sys2Proof.Machine

/-- What every state of a machine launched as spec/70_reset_and_hazards.md R263 says keeps through every step. -/
structure State.Good (s : State) : Prop where
  /-- 30_encoding.md R85: the configuration is one the spec admits. -/
  config : s.cfg.wellFormed = true
  /-- Memory keeps its canonical form. -/
  memory : s.mem.wf = true
  /-- 20_memory.md R50: only cells below MEM_SIZE exist. -/
  cells : s.mem.within s.cfg.memSize = true
  /-- 10_state.md R26: the PC field is 0x0000 for the whole life of the Cpu. -/
  pc : s.pcField = 0x0000#16
  /-- 40_dispatch.md R103: the cursor never passes the end of code. -/
  cursor : s.cursor ≤ s.code.length
  /-- R103, R110: after `Done` the cursor is exactly the length of code. -/
  finished : s.phase = .done → s.cursor = s.code.length
  /-- 60_exceptions.md R241, R242: a Cpu is faulted exactly when its fault mark is set. -/
  marked : s.phase = .faulted ↔ s.fault ≠ none
  /-- 20_memory.md R68, 60_exceptions.md R242: no Run call waits while a Run executes or on a faulted Cpu. -/
  oneCall : s.phase = .running ∨ s.phase = .faulted → s.runCall = none
  /-- 10_state.md R30: the record names the faulting instruction by its cursor and opcode byte. -/
  record : ∀ r, s.fault = some r → r.cursor = s.cursor ∧ s.code[s.cursor]? = some r.opcode

/-- `k` steps lead from one state to another, with no stop between. -/
def reaches : Nat → State → State → Prop
  | 0, s, t => s = t
  | k + 1, s, t => ∃ u, step s = .next u ∧ reaches k u t

/-- What no instruction touches while it completes: configuration, PC field, fault mark, the Run and the host's call. -/
structure SameRun (s t : State) : Prop where
  cfg : t.cfg = s.cfg
  pcField : t.pcField = s.pcField
  fault : t.fault = s.fault
  phase : t.phase = s.phase
  code : t.code = s.code
  runCall : t.runCall = s.runCall

/-- 42_load.md R140, 44_transfer.md R190: register `r` takes `v`, Z and N follow `v`, the cursor passes `n` operand bytes,
and nothing else changes. -/
structure LoadEffect (r : Reg) (v : Byte) (n : Nat) (s t : State) : Prop where
  dest : t.reg r = v
  others : ∀ q, q ≠ r → t.reg q = s.reg q
  zero : t.regP.getLsbD 1 = decide (v = 0#8)
  negative : t.regP.getLsbD 7 = v.getLsbD 7
  otherBits : ∀ k, k ≠ 1 → k ≠ 7 → t.regP.getLsbD k = s.regP.getLsbD k
  mem : t.mem = s.mem
  out : t.out = s.out
  cursor : t.cursor = s.cursor + 1 + n
  run : SameRun s t

/-- 43_store.md R170: the one cell at `ea` takes `v`, the cursor passes `n` operand bytes, and nothing else changes. -/
structure StoreEffect (ea : Nat) (v : Byte) (n : Nat) (s t : State) : Prop where
  stored : t.mem.read ea = v
  otherCells : ∀ addr, addr ≠ ea → t.mem.read addr = s.mem.read addr
  registers : ∀ q, t.reg q = s.reg q
  flags : t.regP = s.regP
  out : t.out = s.out
  cursor : t.cursor = s.cursor + 1 + n
  run : SameRun s t

/-- 45_adc.md R200: `ADD(v)` and the cursor past `n` operand bytes. -/
structure AdcEffect (v : Byte) (n : Nat) (s t : State) : Prop where
  result : t.regA.toNat = (s.regA.toNat + v.toNat + (s.regP.getLsbD 0).toNat) % 256
  others : ∀ q, q ≠ .a → t.reg q = s.reg q
  carry : t.regP.getLsbD 0 = decide (255 < s.regA.toNat + v.toNat + (s.regP.getLsbD 0).toNat)
  zero : t.regP.getLsbD 1 = decide (s.regA = 0#8)
  overflow : t.regP.getLsbD 6 = (s.regA.getLsbD 7 != t.regA.getLsbD 7)
  negative : t.regP.getLsbD 7 = t.regA.getLsbD 7
  otherBits : ∀ k, 2 ≤ k → k ≤ 5 → t.regP.getLsbD k = s.regP.getLsbD k
  mem : t.mem = s.mem
  out : t.out = s.out
  cursor : t.cursor = s.cursor + 1 + n
  run : SameRun s t

/-- 46_diagnostic.md R220, R221, R223: the trace takes `v`, the cursor passes `n` operand bytes, and nothing else changes. -/
structure EmitEffect (v : Byte) (n : Nat) (s t : State) : Prop where
  emitted : t.out = s.out ++ [v]
  registers : ∀ q, t.reg q = s.reg q
  flags : t.regP = s.regP
  mem : t.mem = s.mem
  cursor : t.cursor = s.cursor + 1 + n
  run : SameRun s t

/-- 60_exceptions.md R241, 10_state.md R30: the state left by a fault of kind `k` of the instruction whose opcode byte is `op`. -/
def faultedFrom (s : State) (k : FaultKind) (op : Byte) : State :=
  { s with fault := some { kind := k, cursor := s.cursor, opcode := op }, phase := .faulted }

/-- 41_addressing.md R128: the pointer at zero-page location `p`, of one byte or of two, low byte first, wrapping in the zero page. -/
def pointerAt (s : State) (p : Byte) : Nat :=
  match s.cfg.pointerBytes with
  | .one => (s.mem.read p.toNat).toNat
  | .two => (s.mem.read p.toNat).toNat + 256 * (s.mem.read ((p.toNat + 1) % 256)).toNat

/-- The families of the opcode table (spec/INDEX.md), with the register an instruction loads or moves into. -/
inductive Family where
  | load (r : Reg)
  | store (r : Reg)
  | transfer (src dst : Reg)
  | adc
  | diagnostic
  deriving DecidableEq, Repr

/-- The family of an instruction (42_load.md to 46_diagnostic.md). -/
def familyOf (i : Instr) : Family :=
  match i with
  | .ldaImm _ => .load .a
  | .ldaZp _ => .load .a
  | .ldaZpx _ => .load .a
  | .ldaAbs _ => .load .a
  | .ldaAbsx _ => .load .a
  | .ldaAbsy _ => .load .a
  | .ldaIndx _ => .load .a
  | .ldaIndy _ => .load .a
  | .ldxImm _ => .load .x
  | .ldxZp _ => .load .x
  | .ldxZpy _ => .load .x
  | .ldxAbs _ => .load .x
  | .ldxAbsy _ => .load .x
  | .ldyImm _ => .load .y
  | .ldyZp _ => .load .y
  | .ldyZpx _ => .load .y
  | .ldyAbs _ => .load .y
  | .ldyAbsx _ => .load .y
  | .staZp _ => .store .a
  | .staZpx _ => .store .a
  | .staAbs _ => .store .a
  | .staAbsx _ => .store .a
  | .staAbsy _ => .store .a
  | .staIndx _ => .store .a
  | .staIndy _ => .store .a
  | .stxZp _ => .store .x
  | .stxZpy _ => .store .x
  | .stxAbs _ => .store .x
  | .styZp _ => .store .y
  | .styZpx _ => .store .y
  | .styAbs _ => .store .y
  | .tax => .transfer .a .x
  | .tay => .transfer .a .y
  | .tsx => .transfer .s .x
  | .txa => .transfer .x .a
  | .txs => .transfer .x .s
  | .tya => .transfer .y .a
  | .adcImm _ => .adc
  | .adcZp _ => .adc
  | .adcZpx _ => .adc
  | .adcAbs _ => .adc
  | .adcAbsx _ => .adc
  | .adcAbsy _ => .adc
  | .adcIndx _ => .adc
  | .adcIndy _ => .adc
  | .diagzp _ => .diagnostic
  | .diaga => .diagnostic

/-- 41_addressing.md R131: whether the mode of an instruction can name an address at or above MEM_SIZE, in an admitted configuration. -/
def mayLeaveMemory (cfg : Config) (i : Instr) : Bool :=
  match i with
  | .ldaImm _ => false
  | .ldaZp _ => false
  | .ldaZpx _ => false
  | .ldaAbs _ => decide (cfg.memSize < 65536)
  | .ldaAbsx _ => true
  | .ldaAbsy _ => true
  | .ldaIndx _ => decide (cfg.pointerBytes = .two) && decide (cfg.memSize < 65536)
  | .ldaIndy _ => decide (cfg.pointerBytes = .two) || decide (cfg.memSize < 0x1FF)
  | .ldxImm _ => false
  | .ldxZp _ => false
  | .ldxZpy _ => false
  | .ldxAbs _ => decide (cfg.memSize < 65536)
  | .ldxAbsy _ => true
  | .ldyImm _ => false
  | .ldyZp _ => false
  | .ldyZpx _ => false
  | .ldyAbs _ => decide (cfg.memSize < 65536)
  | .ldyAbsx _ => true
  | .staZp _ => false
  | .staZpx _ => false
  | .staAbs _ => decide (cfg.memSize < 65536)
  | .staAbsx _ => true
  | .staAbsy _ => true
  | .staIndx _ => decide (cfg.pointerBytes = .two) && decide (cfg.memSize < 65536)
  | .staIndy _ => decide (cfg.pointerBytes = .two) || decide (cfg.memSize < 0x1FF)
  | .stxZp _ => false
  | .stxZpy _ => false
  | .stxAbs _ => decide (cfg.memSize < 65536)
  | .styZp _ => false
  | .styZpx _ => false
  | .styAbs _ => decide (cfg.memSize < 65536)
  | .tax => false
  | .tay => false
  | .tsx => false
  | .txa => false
  | .txs => false
  | .tya => false
  | .adcImm _ => false
  | .adcZp _ => false
  | .adcZpx _ => false
  | .adcAbs _ => decide (cfg.memSize < 65536)
  | .adcAbsx _ => true
  | .adcAbsy _ => true
  | .adcIndx _ => decide (cfg.pointerBytes = .two) && decide (cfg.memSize < 65536)
  | .adcIndy _ => decide (cfg.pointerBytes = .two) || decide (cfg.memSize < 0x1FF)
  | .diagzp _ => false
  | .diaga => false

/-- What a step of a Run may depend on (40_dispatch.md R108): two states alike in the configuration, the registers, the four flags,
Memory, code and cursor. They may differ in the PC field, bits 2 to 5 of P, the trace, the fault mark and the Run call that waits. -/
structure SameInputs (s t : State) : Prop where
  cfg : t.cfg = s.cfg
  registers : ∀ q, t.reg q = s.reg q
  flags : ∀ k, k ∉ [2, 3, 4, 5] → t.regP.getLsbD k = s.regP.getLsbD k
  mem : t.mem = s.mem
  code : t.code = s.code
  cursor : t.cursor = s.cursor
  phase : t.phase = s.phase

end Sys2Proof.Machine
end

