-- ==== Sys2Proof/Certificates/Slice0/Obligations.lean ====
section
/-! DEFINITION. The statements for the provers, from the numbered rules of spec/. Their effects (LoadEffect, StoreEffect, AdcEffect, EmitEffect)
and the invariant State.Good stand in Safety.lean. -/

open Sys2Proof Sys2Proof.Machine

/-- In the default configuration the byte sequences the spec writes out (the ten mode examples of 30_encoding.md section 5, one more
of each family, and the unrecognised byte 0x02) decode to the instruction the spec names, with the operand the spec names.
Cites: 30_encoding.md section 3 (opcode map) and section 5 (examples of R87); 95_test_vectors.md section 2. -/
def Obligations.SpecEncodingsDecode : Prop :=
  decode Config.default [0xAA] = .instr .tax [] ∧
  decode Config.default [0xA9, 0x10] = .instr (.ldaImm 0x10) [] ∧
  decode Config.default [0x85, 0x20] = .instr (.staZp 0x20) [] ∧
  decode Config.default [0x95, 0x10] = .instr (.staZpx 0x10) [] ∧
  decode Config.default [0xB6, 0x10] = .instr (.ldxZpy 0x10) [] ∧
  decode Config.default [0xAD, 0x34, 0x12] = .instr (.ldaAbs 0x1234) [] ∧
  decode Config.default [0xBD, 0x34, 0x12] = .instr (.ldaAbsx 0x1234) [] ∧
  decode Config.default [0xB9, 0x34, 0x12] = .instr (.ldaAbsy 0x1234) [] ∧
  decode Config.default [0xA1, 0x40] = .instr (.ldaIndx 0x40) [] ∧
  decode Config.default [0xB1, 0x40] = .instr (.ldaIndy 0x40) [] ∧
  decode Config.default [0x6D, 0x20, 0x00] = .instr (.adcAbs 0x0020) [] ∧
  decode Config.default [0x65, 0x20] = .instr (.adcZp 0x20) [] ∧
  decode Config.default [0xBC, 0x00, 0x01] = .instr (.ldyAbsx 0x0100) [] ∧
  decode Config.default [0x8C, 0x34, 0x12] = .instr (.styAbs 0x1234) [] ∧
  decode Config.default [0x02] = .unrecognised 0x02

/-- For every admitted configuration, every instruction that is well formed in it (all 47 constructors, every operand value) and any
bytes after it: the encoder answers bytes, and decoding those bytes followed by the rest gives the instruction and that rest.
Cites: 30_encoding.md section 1 (formats); 30_encoding.md section 2 (operand assembly); 30_encoding.md section 3 (decoder). -/
def Obligations.EncodedInstructionsDecodeBack : Prop :=
  ∀ (cfg : Config) (i : Instr) (rest : List Byte), cfg.wellFormed = true → i.wellFormed cfg = true →
  ∃ bytes, encode cfg i = some bytes ∧ decode cfg (bytes ++ rest) = .instr i rest

/-- In any configuration, if decoding bytes gives an instruction and a rest, then the bytes are the encoding of that instruction
followed by the rest, and the instruction is well formed in the configuration: no two byte sequences stand for one instruction,
and no byte is dropped.
Cites: 30_encoding.md section 1 (formats); 30_encoding.md section 2 (operand assembly); 30_encoding.md section 3 (decoder). -/
def Obligations.DecodedBytesEncodeBack : Prop :=
  ∀ (cfg : Config) (bytes : List Byte) (i : Instr) (rest : List Byte), decode cfg bytes = .instr i rest →
  i.wellFormed cfg = true ∧ ∃ pre, encode cfg i = some pre ∧ bytes = pre ++ rest

/-- In any configuration, an opcode byte that is not recognised decodes as an unrecognised byte whatever follows, and a recognised
one with its n operand bytes decodes to an instruction that leaves all but those n bytes. In a running state an unrecognised
byte moves the cursor by 1, and a recognised one with its operand bytes moves it by 1 + n, unless the instruction ends the Run
with a fault.
Cites: R82. -/
def Obligations.LengthIsFixedByTheOpcode : Prop :=
  (∀ (cfg : Config) (op : Byte) (r : List Byte),
    (recognise cfg op = none → decode cfg (op :: r) = .unrecognised op) ∧
    (∀ f, recognise cfg op = some f → f.operandBytes ≤ r.length →
      ∃ i, decode cfg (op :: r) = .instr i (r.drop f.operandBytes) ∧ i.operands.length = f.operandBytes)) ∧
  (∀ (s t : State) (op : Byte) (r : List Byte), s.phase = .running → s.code.drop s.cursor = op :: r → step s = .next t →
    (recognise s.cfg op = none → t.cursor = s.cursor + 1) ∧
    (∀ f, recognise s.cfg op = some f → f.operandBytes ≤ r.length → t.phase = .running →
      t.cursor = s.cursor + 1 + f.operandBytes))

/-- The default configuration is one the model admits. A byte is recognised in it exactly when it is in the opcode table; of the 256
byte values it recognises 45 and leaves 211 unrecognised. Each of the 45 bytes, with its operand bytes (an absolute address low
byte first) and any bytes after them, decodes to the instruction the opcode map gives it. (Forty-two of the bytes are the spec's
own decision D14.)
Cites: 30_encoding.md section 3 (R84, its decision D14); 30_encoding.md section 2 (R83); 30_encoding.md section 4 (reserved
encodings). -/
def Obligations.DefaultMapHasFortyFiveOpcodes : Prop :=
  Config.default.wellFormed = true ∧
  (∀ op, (recognise Config.default op).isSome = true ↔ op ∈ tableOpcodes) ∧
  ((List.range 256).filter (fun n => (recognise Config.default (BitVec.ofNat 8 n)).isSome)).length = 45 ∧
  ((List.range 256).filter (fun n => (recognise Config.default (BitVec.ofNat 8 n)).isNone)).length = 211 ∧
  ∀ (b lo hi : Byte) (r : List Byte),
    decode Config.default (0xA9 :: b :: r) = .instr (.ldaImm b) r ∧
    decode Config.default (0xA5 :: b :: r) = .instr (.ldaZp b) r ∧
    decode Config.default (0xB5 :: b :: r) = .instr (.ldaZpx b) r ∧
    decode Config.default (0xAD :: lo :: hi :: r) = .instr (.ldaAbs (wordOf lo hi)) r ∧
    decode Config.default (0xBD :: lo :: hi :: r) = .instr (.ldaAbsx (wordOf lo hi)) r ∧
    decode Config.default (0xB9 :: lo :: hi :: r) = .instr (.ldaAbsy (wordOf lo hi)) r ∧
    decode Config.default (0xA1 :: b :: r) = .instr (.ldaIndx b) r ∧
    decode Config.default (0xB1 :: b :: r) = .instr (.ldaIndy b) r ∧
    decode Config.default (0xA2 :: b :: r) = .instr (.ldxImm b) r ∧
    decode Config.default (0xA6 :: b :: r) = .instr (.ldxZp b) r ∧
    decode Config.default (0xB6 :: b :: r) = .instr (.ldxZpy b) r ∧
    decode Config.default (0xAE :: lo :: hi :: r) = .instr (.ldxAbs (wordOf lo hi)) r ∧
    decode Config.default (0xBE :: lo :: hi :: r) = .instr (.ldxAbsy (wordOf lo hi)) r ∧
    decode Config.default (0xA0 :: b :: r) = .instr (.ldyImm b) r ∧
    decode Config.default (0xA4 :: b :: r) = .instr (.ldyZp b) r ∧
    decode Config.default (0xB4 :: b :: r) = .instr (.ldyZpx b) r ∧
    decode Config.default (0xAC :: lo :: hi :: r) = .instr (.ldyAbs (wordOf lo hi)) r ∧
    decode Config.default (0xBC :: lo :: hi :: r) = .instr (.ldyAbsx (wordOf lo hi)) r ∧
    decode Config.default (0x85 :: b :: r) = .instr (.staZp b) r ∧
    decode Config.default (0x95 :: b :: r) = .instr (.staZpx b) r ∧
    decode Config.default (0x8D :: lo :: hi :: r) = .instr (.staAbs (wordOf lo hi)) r ∧
    decode Config.default (0x9D :: lo :: hi :: r) = .instr (.staAbsx (wordOf lo hi)) r ∧
    decode Config.default (0x99 :: lo :: hi :: r) = .instr (.staAbsy (wordOf lo hi)) r ∧
    decode Config.default (0x81 :: b :: r) = .instr (.staIndx b) r ∧
    decode Config.default (0x91 :: b :: r) = .instr (.staIndy b) r ∧
    decode Config.default (0x86 :: b :: r) = .instr (.stxZp b) r ∧
    decode Config.default (0x96 :: b :: r) = .instr (.stxZpy b) r ∧
    decode Config.default (0x8E :: lo :: hi :: r) = .instr (.stxAbs (wordOf lo hi)) r ∧
    decode Config.default (0x84 :: b :: r) = .instr (.styZp b) r ∧
    decode Config.default (0x94 :: b :: r) = .instr (.styZpx b) r ∧
    decode Config.default (0x8C :: lo :: hi :: r) = .instr (.styAbs (wordOf lo hi)) r ∧
    decode Config.default (0xAA :: r) = .instr .tax r ∧
    decode Config.default (0xA8 :: r) = .instr .tay r ∧
    decode Config.default (0xBA :: r) = .instr .tsx r ∧
    decode Config.default (0x8A :: r) = .instr .txa r ∧
    decode Config.default (0x9A :: r) = .instr .txs r ∧
    decode Config.default (0x98 :: r) = .instr .tya r ∧
    decode Config.default (0x69 :: b :: r) = .instr (.adcImm b) r ∧
    decode Config.default (0x65 :: b :: r) = .instr (.adcZp b) r ∧
    decode Config.default (0x75 :: b :: r) = .instr (.adcZpx b) r ∧
    decode Config.default (0x6D :: lo :: hi :: r) = .instr (.adcAbs (wordOf lo hi)) r ∧
    decode Config.default (0x7D :: lo :: hi :: r) = .instr (.adcAbsx (wordOf lo hi)) r ∧
    decode Config.default (0x79 :: lo :: hi :: r) = .instr (.adcAbsy (wordOf lo hi)) r ∧
    decode Config.default (0x61 :: b :: r) = .instr (.adcIndx b) r ∧
    decode Config.default (0x71 :: b :: r) = .instr (.adcIndy b) r

/-- A byte of OPCODE_SET decodes by the opcode table; outside it the byte configured for DIAGZP takes one operand byte, the byte
configured for DIAGA takes none, and any other byte is unrecognised. A state whose configuration puts a diagnostic opcode inside
OPCODE_SET, gives both diagnostic opcodes one byte, has a MEM_SIZE outside 256 to 65536, or lists an opcode outside the table is
refused by step. (That a STEP refuses it is the MODEL'S CHOICE, log 2: the spec refuses the launch, R110, which
SharedMemoryLaunchesAreRefused states.)
Cites: 30_encoding.md section 3 (R85, its decision D15); 00_scope.md section 3; 40_dispatch.md section 5 (R110);
notes/assumptions/2.md (the model's choice). -/
def Obligations.ConfigurationDrivesTheDecoder : Prop :=
  (∀ (cfg : Config) (op b : Byte) (r : List Byte), op ∉ cfg.opcodeSet →
    (cfg.diagZpOpcode = some op → decode cfg (op :: b :: r) = .instr (.diagzp b) r) ∧
    (cfg.diagZpOpcode ≠ some op → cfg.diagAOpcode = some op → decode cfg (op :: r) = .instr .diaga r) ∧
    (cfg.diagZpOpcode ≠ some op → cfg.diagAOpcode ≠ some op → decode cfg (op :: r) = .unrecognised op)) ∧
  (∀ (cfg : Config) (op : Byte) (r : List Byte), op ∈ cfg.opcodeSet → op ∈ tableOpcodes →
    ∃ f, tableForm op = some f ∧ decode cfg (op :: r) = f.read op r) ∧
  (∀ (s : State) (op : Byte),
    (op ∈ s.cfg.opcodeSet ∧ (s.cfg.diagZpOpcode = some op ∨ s.cfg.diagAOpcode = some op ∨ op ∉ tableOpcodes)) ∨
      (s.cfg.diagZpOpcode = some op ∧ s.cfg.diagAOpcode = some op) ∨
      s.cfg.memSize < 256 ∨ 65536 < s.cfg.memSize →
    step s = .refused .badConfiguration)

/-- For every P and every byte v: setZN(v) makes Z true exactly when v is 0 and N equal to bit 7 of v, and leaves every other bit of
P as it was. isNegative(v) is bit 7 of v.
Cites: R24. -/
def Obligations.SetZNWritesZeroAndNegativeOnly : Prop :=
  ∀ p v : Byte,
  flagOf (setZN p v) .z = decide (v = 0#8) ∧
  flagOf (setZN p v) .n = v.getLsbD 7 ∧
  (∀ k, k ≠ 1 → k ≠ 7 → (setZN p v).getLsbD k = p.getLsbD k) ∧
  (isNegative v = true ↔ v.getLsbD 7 = true)

/-- For every state and byte v, ADD(v) stores the sum A + v + C mod 256 in A, sets C exactly when the sum exceeds 255, sets Z from
the OLD A, sets V exactly when bit 7 of the old A differs from bit 7 of the result, sets N from bit 7 of the result, keeps bits
2 to 5 of P, and changes nothing else. (That N is written is the spec's own decision D21.)
Cites: 45_adc.md section 1 (R200, its decision D21 for N); 90_conflicts.md C1 and C2. -/
def Obligations.AddFollowsItsAlgorithm : Prop :=
  ∀ (s : State) (v : Byte),
  ((s.add v).regA.toNat = (s.regA.toNat + v.toNat + (s.flag .c).toNat) % 256) ∧
  ((s.add v).flag .c = true ↔ s.regA.toNat + v.toNat + (s.flag .c).toNat > 255) ∧
  ((s.add v).flag .z = true ↔ s.regA = 0#8) ∧
  ((s.add v).flag .v = true ↔ s.regA.getLsbD 7 ≠ (s.add v).regA.getLsbD 7) ∧
  ((s.add v).flag .n = (s.add v).regA.getLsbD 7) ∧
  (∀ k, 2 ≤ k → k ≤ 5 → (s.add v).regP.getLsbD k = s.regP.getLsbD k) ∧
  { s.add v with regA := s.regA, regP := s.regP } = s

/-- ADD(v) with C = 1 stores the same A and sets the same four flags as ADD(v+1) with C = 0, for v + 1 ≤ 255. Swapping A and v gives
the same A and C, while Z and V read the old A alone and can differ. With v = 0 and C = 0, A is kept, C and V are 0, Z is (A ==
0) and N is bit 7 of A. Two addends with the same bit 7 whose sum has the other bit 7 always set V. An addend of opposite sign
can set V too.
Cites: 45_adc.md section 1 (R210, derived there from R200); 90_conflicts.md C2. -/
def Obligations.AddObeysTheArithmeticLaws : Prop :=
  (∀ (s : State) (v : Byte), v ≠ 0xFF#8 →
    { s with regP := setFlag s.regP .c true }.add v = { s with regP := setFlag s.regP .c false }.add (v + 1#8)) ∧
  (∀ (s : State) (v : Byte),
    (s.add v).regA = ({ s with regA := v }.add s.regA).regA ∧
    (s.add v).flag .c = ({ s with regA := v }.add s.regA).flag .c) ∧
  (∃ (s : State) (v : Byte), (s.add v).flag .z ≠ ({ s with regA := v }.add s.regA).flag .z ∧
    (s.add v).flag .v ≠ ({ s with regA := v }.add s.regA).flag .v) ∧
  (∀ s : State, s.flag .c = false →
    (s.add 0#8).regA = s.regA ∧ (s.add 0#8).flag .c = false ∧ (s.add 0#8).flag .v = false ∧
    (s.add 0#8).flag .z = decide (s.regA = 0#8) ∧ (s.add 0#8).flag .n = s.regA.getLsbD 7) ∧
  (∀ (s : State) (v : Byte), s.regA.getLsbD 7 = v.getLsbD 7 → (s.add v).regA.getLsbD 7 ≠ v.getLsbD 7 →
    (s.add v).flag .v = true) ∧
  (∃ (s : State) (v : Byte), s.regA.getLsbD 7 ≠ v.getLsbD 7 ∧ (s.add v).flag .v = true)

/-- Two states that differ in P alone and agree on its carry bit give the same A and the same C, Z, V and N after ADD(v): no bit of
P but C is read, so bit 3 selects no decimal mode. (That there is no decimal mode is the spec's own decision D22.)
Cites: 45_adc.md section 1 (R201, its decision D22); 10_state.md section 3. -/
def Obligations.AddIgnoresTheUnusedBits : Prop :=
  ∀ (s : State) (p v : Byte), p.getLsbD 0 = s.regP.getLsbD 0 →
  ({ s with regP := p }.add v).regA = (s.add v).regA ∧
  ∀ f : Flag, ({ s with regP := p }.add v).flag f = (s.add v).flag f

/-- In an admitted configuration, each of the eight forms of LDA answers a next state whenever its effective address is below
MEM_SIZE (always, for the immediate and zero-page forms): A takes the byte the form reads, Z and N follow that byte, the cursor
passes the instruction, and every other register, flag bit, Memory cell, the trace, the PC field, the fault mark and the Run are
unchanged. The width of the address sums and of the pointers is the spec's own decision (D18, D19, D20).
Cites: 42_load.md section 1 (the load operation) and section 2 (LDA: load accumulator); 41_addressing.md section 2 (decisions
D18 to D20); 10_state.md section 3. -/
def Obligations.LdaResults : Prop :=
  ∀ s : State, s.cfg.wellFormed = true →
  (∀ v : Byte, ∃ t, exec (.ldaImm v) s = .next t ∧ LoadEffect .a v 1 s t) ∧
  (∀ b : Byte, ∃ t, exec (.ldaZp b) s = .next t ∧
    LoadEffect .a (s.mem.read b.toNat) 1 s t) ∧
  (∀ b : Byte, ∃ t, exec (.ldaZpx b) s = .next t ∧
    LoadEffect .a (s.mem.read ((b.toNat + s.regX.toNat) % 256)) 1 s t) ∧
  (∀ w : Word, w.toNat < s.cfg.memSize → ∃ t, exec (.ldaAbs w) s = .next t ∧
    LoadEffect .a (s.mem.read w.toNat) 2 s t) ∧
  (∀ w : Word, (w.toNat + s.regX.toNat) < s.cfg.memSize → ∃ t, exec (.ldaAbsx w) s = .next t ∧
    LoadEffect .a (s.mem.read (w.toNat + s.regX.toNat)) 2 s t) ∧
  (∀ w : Word, (w.toNat + s.regY.toNat) < s.cfg.memSize → ∃ t, exec (.ldaAbsy w) s = .next t ∧
    LoadEffect .a (s.mem.read (w.toNat + s.regY.toNat)) 2 s t) ∧
  (∀ b : Byte, (pointerAt s (b + s.regX)) < s.cfg.memSize → ∃ t, exec (.ldaIndx b) s = .next t ∧
    LoadEffect .a (s.mem.read (pointerAt s (b + s.regX))) 1 s t) ∧
  (∀ b : Byte, (pointerAt s b + s.regY.toNat) < s.cfg.memSize → ∃ t, exec (.ldaIndy b) s = .next t ∧
    LoadEffect .a (s.mem.read (pointerAt s b + s.regY.toNat)) 1 s t)

/-- In an admitted configuration, each of the five forms of LDX answers a next state whenever its effective address is below
MEM_SIZE (always, for the immediate and zero-page forms): X takes the byte the form reads, Z and N follow that byte, the cursor
passes the instruction, and every other register, flag bit, Memory cell, the trace, the PC field, the fault mark and the Run are
unchanged. The width of the address sums and of the pointers is the spec's own decision (D18, D19, D20).
Cites: 42_load.md section 1 (the load operation) and section 2 (LDX: load X); 41_addressing.md section 2 (decisions D18 to D20);
10_state.md section 3. -/
def Obligations.LdxResults : Prop :=
  ∀ s : State, s.cfg.wellFormed = true →
  (∀ v : Byte, ∃ t, exec (.ldxImm v) s = .next t ∧ LoadEffect .x v 1 s t) ∧
  (∀ b : Byte, ∃ t, exec (.ldxZp b) s = .next t ∧
    LoadEffect .x (s.mem.read b.toNat) 1 s t) ∧
  (∀ b : Byte, ∃ t, exec (.ldxZpy b) s = .next t ∧
    LoadEffect .x (s.mem.read ((b.toNat + s.regY.toNat) % 256)) 1 s t) ∧
  (∀ w : Word, w.toNat < s.cfg.memSize → ∃ t, exec (.ldxAbs w) s = .next t ∧
    LoadEffect .x (s.mem.read w.toNat) 2 s t) ∧
  (∀ w : Word, (w.toNat + s.regY.toNat) < s.cfg.memSize → ∃ t, exec (.ldxAbsy w) s = .next t ∧
    LoadEffect .x (s.mem.read (w.toNat + s.regY.toNat)) 2 s t)

/-- In an admitted configuration, each of the five forms of LDY answers a next state whenever its effective address is below
MEM_SIZE (always, for the immediate and zero-page forms): Y takes the byte the form reads, Z and N follow that byte, the cursor
passes the instruction, and every other register, flag bit, Memory cell, the trace, the PC field, the fault mark and the Run are
unchanged. The width of the address sums and of the pointers is the spec's own decision (D18, D19, D20).
Cites: 42_load.md section 1 (the load operation) and section 2 (LDY: load Y); 41_addressing.md section 2 (decisions D18 to D20);
10_state.md section 3. -/
def Obligations.LdyResults : Prop :=
  ∀ s : State, s.cfg.wellFormed = true →
  (∀ v : Byte, ∃ t, exec (.ldyImm v) s = .next t ∧ LoadEffect .y v 1 s t) ∧
  (∀ b : Byte, ∃ t, exec (.ldyZp b) s = .next t ∧
    LoadEffect .y (s.mem.read b.toNat) 1 s t) ∧
  (∀ b : Byte, ∃ t, exec (.ldyZpx b) s = .next t ∧
    LoadEffect .y (s.mem.read ((b.toNat + s.regX.toNat) % 256)) 1 s t) ∧
  (∀ w : Word, w.toNat < s.cfg.memSize → ∃ t, exec (.ldyAbs w) s = .next t ∧
    LoadEffect .y (s.mem.read w.toNat) 2 s t) ∧
  (∀ w : Word, (w.toNat + s.regX.toNat) < s.cfg.memSize → ∃ t, exec (.ldyAbsx w) s = .next t ∧
    LoadEffect .y (s.mem.read (w.toNat + s.regX.toNat)) 2 s t)

/-- In an admitted configuration, in a state whose Memory is in canonical form, each of the seven forms of STA answers a next state
whenever its effective address is below MEM_SIZE (always, for the zero-page forms): the cell at that address reads A, every
other cell reads as before, the cursor passes the instruction, and every register, P whole, the trace, the PC field, the fault
mark and the Run are unchanged. The canonical form is an invariant of the model (EveryStepKeepsGood).
Cites: 43_store.md section 1 (the store operation) and section 2; 41_addressing.md section 2 (decisions D18 to D20);
20_memory.md section 2. -/
def Obligations.StaResults : Prop :=
  ∀ s : State, s.cfg.wellFormed = true → s.mem.wf = true →
  (∀ b : Byte, ∃ t, exec (.staZp b) s = .next t ∧
    StoreEffect b.toNat s.regA 1 s t) ∧
  (∀ b : Byte, ∃ t, exec (.staZpx b) s = .next t ∧
    StoreEffect ((b.toNat + s.regX.toNat) % 256) s.regA 1 s t) ∧
  (∀ w : Word, w.toNat < s.cfg.memSize → ∃ t, exec (.staAbs w) s = .next t ∧
    StoreEffect w.toNat s.regA 2 s t) ∧
  (∀ w : Word, (w.toNat + s.regX.toNat) < s.cfg.memSize → ∃ t, exec (.staAbsx w) s = .next t ∧
    StoreEffect (w.toNat + s.regX.toNat) s.regA 2 s t) ∧
  (∀ w : Word, (w.toNat + s.regY.toNat) < s.cfg.memSize → ∃ t, exec (.staAbsy w) s = .next t ∧
    StoreEffect (w.toNat + s.regY.toNat) s.regA 2 s t) ∧
  (∀ b : Byte, (pointerAt s (b + s.regX)) < s.cfg.memSize → ∃ t, exec (.staIndx b) s = .next t ∧
    StoreEffect (pointerAt s (b + s.regX)) s.regA 1 s t) ∧
  (∀ b : Byte, (pointerAt s b + s.regY.toNat) < s.cfg.memSize → ∃ t, exec (.staIndy b) s = .next t ∧
    StoreEffect (pointerAt s b + s.regY.toNat) s.regA 1 s t)

/-- In an admitted configuration, in a state whose Memory is in canonical form, each of the three forms of STX answers a next state
whenever its effective address is below MEM_SIZE (always, for the zero-page forms): the cell at that address reads X, every
other cell reads as before, the cursor passes the instruction, and every register, P whole, the trace, the PC field, the fault
mark and the Run are unchanged. The canonical form is an invariant of the model (EveryStepKeepsGood).
Cites: 43_store.md section 1 (the store operation) and section 2; 41_addressing.md section 2 (decisions D18 to D20);
20_memory.md section 2. -/
def Obligations.StxResults : Prop :=
  ∀ s : State, s.cfg.wellFormed = true → s.mem.wf = true →
  (∀ b : Byte, ∃ t, exec (.stxZp b) s = .next t ∧
    StoreEffect b.toNat s.regX 1 s t) ∧
  (∀ b : Byte, ∃ t, exec (.stxZpy b) s = .next t ∧
    StoreEffect ((b.toNat + s.regY.toNat) % 256) s.regX 1 s t) ∧
  (∀ w : Word, w.toNat < s.cfg.memSize → ∃ t, exec (.stxAbs w) s = .next t ∧
    StoreEffect w.toNat s.regX 2 s t)

/-- In an admitted configuration, in a state whose Memory is in canonical form, each of the three forms of STY answers a next state
whenever its effective address is below MEM_SIZE (always, for the zero-page forms): the cell at that address reads Y, every
other cell reads as before, the cursor passes the instruction, and every register, P whole, the trace, the PC field, the fault
mark and the Run are unchanged. The canonical form is an invariant of the model (EveryStepKeepsGood).
Cites: 43_store.md section 1 (the store operation) and section 2; 41_addressing.md section 2 (decisions D18 to D20);
20_memory.md section 2. -/
def Obligations.StyResults : Prop :=
  ∀ s : State, s.cfg.wellFormed = true → s.mem.wf = true →
  (∀ b : Byte, ∃ t, exec (.styZp b) s = .next t ∧
    StoreEffect b.toNat s.regY 1 s t) ∧
  (∀ b : Byte, ∃ t, exec (.styZpx b) s = .next t ∧
    StoreEffect ((b.toNat + s.regX.toNat) % 256) s.regY 1 s t) ∧
  (∀ w : Word, w.toNat < s.cfg.memSize → ∃ t, exec (.styAbs w) s = .next t ∧
    StoreEffect w.toNat s.regY 2 s t)

/-- In every state each of TAX, TAY, TSX, TXA, TXS and TYA answers a next state: the destination takes the source register, Z and N
follow it, the cursor moves by 1, and the source and every other register, C, V, bits 2 to 5 of P, Memory, the trace, the PC
field, the fault mark and the Run are unchanged. TXS sets Z and N as the others do. Each has its opcode byte and no operand
byte.
Cites: R190; R191; R192; R193; R194; R195; R196. -/
def Obligations.TransferResults : Prop :=
  ∀ s : State,
  (∃ t, exec .tax s = .next t ∧ LoadEffect .x s.regA 0 s t ∧ Instr.opcode s.cfg .tax = some 0xAA#8 ∧
    Instr.operands .tax = []) ∧
  (∃ t, exec .tay s = .next t ∧ LoadEffect .y s.regA 0 s t ∧ Instr.opcode s.cfg .tay = some 0xA8#8 ∧
    Instr.operands .tay = []) ∧
  (∃ t, exec .tsx s = .next t ∧ LoadEffect .x s.regS 0 s t ∧ Instr.opcode s.cfg .tsx = some 0xBA#8 ∧
    Instr.operands .tsx = []) ∧
  (∃ t, exec .txa s = .next t ∧ LoadEffect .a s.regX 0 s t ∧ Instr.opcode s.cfg .txa = some 0x8A#8 ∧
    Instr.operands .txa = []) ∧
  (∃ t, exec .txs s = .next t ∧ LoadEffect .s s.regX 0 s t ∧ Instr.opcode s.cfg .txs = some 0x9A#8 ∧
    Instr.operands .txs = []) ∧
  (∃ t, exec .tya s = .next t ∧ LoadEffect .a s.regY 0 s t ∧ Instr.opcode s.cfg .tya = some 0x98#8 ∧
    Instr.operands .tya = [])

/-- In an admitted configuration, each of the eight forms of ADC answers a next state whenever its effective address is below
MEM_SIZE (always, for the immediate and zero-page forms): A takes A + v + C mod 256 for the byte v the form reads, C, Z (old A),
V and N are as 45_adc.md section 1 says, bits 2 to 5 of P, the other registers, Memory, the trace, the PC field, the fault mark
and the Run are unchanged, and the cursor passes the instruction. (N, the sums and the pointer width are the spec's own
decisions D21, D18 to D20.)
Cites: 45_adc.md section 1 (R200, its decision D21 for N) and section 2; 41_addressing.md section 2 (decisions D18 to D20);
90_conflicts.md C1 and C2. -/
def Obligations.AdcResults : Prop :=
  ∀ s : State, s.cfg.wellFormed = true →
  (∀ v : Byte, ∃ t, exec (.adcImm v) s = .next t ∧ AdcEffect v 1 s t) ∧
  (∀ b : Byte, ∃ t, exec (.adcZp b) s = .next t ∧
    AdcEffect (s.mem.read b.toNat) 1 s t) ∧
  (∀ b : Byte, ∃ t, exec (.adcZpx b) s = .next t ∧
    AdcEffect (s.mem.read ((b.toNat + s.regX.toNat) % 256)) 1 s t) ∧
  (∀ w : Word, w.toNat < s.cfg.memSize → ∃ t, exec (.adcAbs w) s = .next t ∧
    AdcEffect (s.mem.read w.toNat) 2 s t) ∧
  (∀ w : Word, (w.toNat + s.regX.toNat) < s.cfg.memSize → ∃ t, exec (.adcAbsx w) s = .next t ∧
    AdcEffect (s.mem.read (w.toNat + s.regX.toNat)) 2 s t) ∧
  (∀ w : Word, (w.toNat + s.regY.toNat) < s.cfg.memSize → ∃ t, exec (.adcAbsy w) s = .next t ∧
    AdcEffect (s.mem.read (w.toNat + s.regY.toNat)) 2 s t) ∧
  (∀ b : Byte, (pointerAt s (b + s.regX)) < s.cfg.memSize → ∃ t, exec (.adcIndx b) s = .next t ∧
    AdcEffect (s.mem.read (pointerAt s (b + s.regX))) 1 s t) ∧
  (∀ b : Byte, (pointerAt s b + s.regY.toNat) < s.cfg.memSize → ∃ t, exec (.adcIndy b) s = .next t ∧
    AdcEffect (s.mem.read (pointerAt s b + s.regY.toNat)) 1 s t)

/-- In an admitted configuration DIAGZP answers a next state in which the trace has the byte of its zero-page cell appended and the
cursor has moved by 2. In every state DIAGA answers a next state in which the trace has A appended and the cursor has moved by
1. No register, flag, Memory cell, PC field, fault mark or Run changes. (Their operands are the spec's own decision D23. That
exec has these effects even in a configuration that gives the instruction no opcode byte is the MODEL'S CHOICE, log 24; no step
runs it there.)
Cites: 46_diagnostic.md section 1 (R220, R221, decisions D15 and D23); 10_state.md section 5; notes/assumptions/24.md (the
model's choice). -/
def Obligations.DiagnosticResults : Prop :=
  ∀ s : State,
  (s.cfg.wellFormed = true → ∀ b : Byte, ∃ t, exec (.diagzp b) s = .next t ∧ EmitEffect (s.mem.read b.toNat) 1 s t) ∧
  (∃ t, exec .diaga s = .next t ∧ EmitEffect s.regA 0 s t)

/-- In a running state of an admitted configuration: where DIAG_ZP_OPCODE is d and the code at the cursor is d and a byte b, step
appends the byte of zero-page cell b to the trace and moves the cursor by 2; where DIAG_A_OPCODE is d and the code at the cursor
is d, step appends A and moves the cursor by 1; nothing else changes.
Cites: 46_diagnostic.md section 1 (R220, R221, decisions D15 and D23); 30_encoding.md section 3. -/
def Obligations.ConfiguredDiagnosticOpcodesRun : Prop :=
  ∀ (s : State) (d : Byte) (r : List Byte), s.cfg.wellFormed = true → s.phase = .running →
  (∀ b : Byte, s.cfg.diagZpOpcode = some d → s.code.drop s.cursor = d :: b :: r →
    ∃ t, step s = .next t ∧ EmitEffect (s.mem.read b.toNat) 1 s t) ∧
  (s.cfg.diagAOpcode = some d → s.code.drop s.cursor = d :: r →
    ∃ t, step s = .next t ∧ EmitEffect s.regA 0 s t)

/-- In an admitted configuration, with an opcode byte at the cursor, every absolute, absolute-indexed and indirect form of LDA, LDX,
LDY and ADC whose effective address is at or above MEM_SIZE (sums at or above 0x10000 included, which never wrap) goes to the
state in which the fault mark holds that address, a read access, the cursor and the opcode byte, the Run has ended Faulted, and
nothing else has changed. (That the access faults is the spec's own decision D9, the state left is D24.)
Cites: 20_memory.md section 2 (R56, its decision D9); 60_exceptions.md section 1 (R240, R241, decision D24); 41_addressing.md
section 3. -/
def Obligations.OutOfRangeReadsFault : Prop :=
  ∀ (s : State) (op : Byte), s.cfg.wellFormed = true → s.code[s.cursor]? = some op →
  (∀ w : Word, s.cfg.memSize ≤ w.toNat →
    exec (.ldaAbs w) s = .next (faultedFrom s (.addressOutOfRange w.toNat .read) op)) ∧
  (∀ w : Word, s.cfg.memSize ≤ (w.toNat + s.regX.toNat) →
    exec (.ldaAbsx w) s = .next (faultedFrom s (.addressOutOfRange (w.toNat + s.regX.toNat) .read) op)) ∧
  (∀ w : Word, s.cfg.memSize ≤ (w.toNat + s.regY.toNat) →
    exec (.ldaAbsy w) s = .next (faultedFrom s (.addressOutOfRange (w.toNat + s.regY.toNat) .read) op)) ∧
  (∀ b : Byte, s.cfg.memSize ≤ (pointerAt s (b + s.regX)) →
    exec (.ldaIndx b) s = .next (faultedFrom s (.addressOutOfRange (pointerAt s (b + s.regX)) .read) op)) ∧
  (∀ b : Byte, s.cfg.memSize ≤ (pointerAt s b + s.regY.toNat) →
    exec (.ldaIndy b) s = .next (faultedFrom s (.addressOutOfRange (pointerAt s b + s.regY.toNat) .read) op)) ∧
  (∀ w : Word, s.cfg.memSize ≤ w.toNat →
    exec (.ldxAbs w) s = .next (faultedFrom s (.addressOutOfRange w.toNat .read) op)) ∧
  (∀ w : Word, s.cfg.memSize ≤ (w.toNat + s.regY.toNat) →
    exec (.ldxAbsy w) s = .next (faultedFrom s (.addressOutOfRange (w.toNat + s.regY.toNat) .read) op)) ∧
  (∀ w : Word, s.cfg.memSize ≤ w.toNat →
    exec (.ldyAbs w) s = .next (faultedFrom s (.addressOutOfRange w.toNat .read) op)) ∧
  (∀ w : Word, s.cfg.memSize ≤ (w.toNat + s.regX.toNat) →
    exec (.ldyAbsx w) s = .next (faultedFrom s (.addressOutOfRange (w.toNat + s.regX.toNat) .read) op)) ∧
  (∀ w : Word, s.cfg.memSize ≤ w.toNat →
    exec (.adcAbs w) s = .next (faultedFrom s (.addressOutOfRange w.toNat .read) op)) ∧
  (∀ w : Word, s.cfg.memSize ≤ (w.toNat + s.regX.toNat) →
    exec (.adcAbsx w) s = .next (faultedFrom s (.addressOutOfRange (w.toNat + s.regX.toNat) .read) op)) ∧
  (∀ w : Word, s.cfg.memSize ≤ (w.toNat + s.regY.toNat) →
    exec (.adcAbsy w) s = .next (faultedFrom s (.addressOutOfRange (w.toNat + s.regY.toNat) .read) op)) ∧
  (∀ b : Byte, s.cfg.memSize ≤ (pointerAt s (b + s.regX)) →
    exec (.adcIndx b) s = .next (faultedFrom s (.addressOutOfRange (pointerAt s (b + s.regX)) .read) op)) ∧
  (∀ b : Byte, s.cfg.memSize ≤ (pointerAt s b + s.regY.toNat) →
    exec (.adcIndy b) s = .next (faultedFrom s (.addressOutOfRange (pointerAt s b + s.regY.toNat) .read) op))

/-- In an admitted configuration, with an opcode byte at the cursor, every absolute, absolute-indexed and indirect form of STA, STX
and STY whose effective address is at or above MEM_SIZE goes to the state in which the fault mark holds that address, a write
access, the cursor and the opcode byte, the Run has ended Faulted, and nothing else has changed: no cell is written. (Spec's own
decisions D9 and D24.)
Cites: 20_memory.md section 2 (R57, its decision D9); 60_exceptions.md section 1 (R240, R241, decision D24); 43_store.md section
2. -/
def Obligations.OutOfRangeWritesFault : Prop :=
  ∀ (s : State) (op : Byte), s.cfg.wellFormed = true → s.code[s.cursor]? = some op →
  (∀ w : Word, s.cfg.memSize ≤ w.toNat →
    exec (.staAbs w) s = .next (faultedFrom s (.addressOutOfRange w.toNat .write) op)) ∧
  (∀ w : Word, s.cfg.memSize ≤ (w.toNat + s.regX.toNat) →
    exec (.staAbsx w) s = .next (faultedFrom s (.addressOutOfRange (w.toNat + s.regX.toNat) .write) op)) ∧
  (∀ w : Word, s.cfg.memSize ≤ (w.toNat + s.regY.toNat) →
    exec (.staAbsy w) s = .next (faultedFrom s (.addressOutOfRange (w.toNat + s.regY.toNat) .write) op)) ∧
  (∀ b : Byte, s.cfg.memSize ≤ (pointerAt s (b + s.regX)) →
    exec (.staIndx b) s = .next (faultedFrom s (.addressOutOfRange (pointerAt s (b + s.regX)) .write) op)) ∧
  (∀ b : Byte, s.cfg.memSize ≤ (pointerAt s b + s.regY.toNat) →
    exec (.staIndy b) s = .next (faultedFrom s (.addressOutOfRange (pointerAt s b + s.regY.toNat) .write) op)) ∧
  (∀ w : Word, s.cfg.memSize ≤ w.toNat →
    exec (.stxAbs w) s = .next (faultedFrom s (.addressOutOfRange w.toNat .write) op)) ∧
  (∀ w : Word, s.cfg.memSize ≤ w.toNat →
    exec (.styAbs w) s = .next (faultedFrom s (.addressOutOfRange w.toNat .write) op))

/-- In a running state of an admitted configuration, where the code at the cursor begins with a recognised opcode byte and fewer
operand bytes follow than its mode takes, step goes to the state in which the fault mark holds TruncatedInstruction, the cursor
and the opcode byte, the Run has ended Faulted, and nothing else has changed. (Spec's own decision D17.)
Cites: 40_dispatch.md section 3 (R107, its decision D17); 60_exceptions.md section 1 (R240, R241, R243). -/
def Obligations.TruncatedInstructionsFault : Prop :=
  ∀ (s : State) (op : Byte) (r : List Byte) (f : Form), s.cfg.wellFormed = true → s.phase = .running →
  s.code.drop s.cursor = op :: r → recognise s.cfg op = some f → r.length < f.operandBytes →
  step s = .next (faultedFrom s .truncatedInstruction op)

/-- For every instruction and every state, exec answers a next state, never a stop. Either the instruction completed: configuration,
PC field, fault mark, phase, code and the host's call are as before and the cursor has moved by 1 plus the number of operand
bytes. Or it took AddressOutOfRange at an address at or above MEM_SIZE, and nothing but the fault mark and the phase differs.
Cites: 60_exceptions.md section 1 (R240, R243); 10_state.md section 4 (R27); 40_dispatch.md section 3. -/
def Obligations.InstructionsCompleteOrTakeAddressFault : Prop :=
  ∀ (i : Instr) (s : State), ∃ t, exec i s = .next t ∧
  ((SameRun s t ∧ t.cursor = s.cursor + 1 + i.operands.length) ∨
   ∃ ea k op, s.cfg.memSize ≤ ea ∧ t = faultedFrom s (.addressOutOfRange ea k) op)

/-- In an admitted configuration an instruction whose mode and configuration are not in the list of 41_addressing.md section 3
(absolute with MEM_SIZE < 65536, absolute indexed, (zp,X) with 2-byte pointers and MEM_SIZE < 65536, (zp),Y with 2-byte pointers
or MEM_SIZE < 0x1FF) always completes: fault mark and phase are as before. So immediate, zero-page, implied and diagnostic forms
never fault.
Cites: 41_addressing.md section 3 (R131, derived there); 20_memory.md section 1 (R54); 42_load.md section 2. -/
def Obligations.AddressFaultsOnlyWhereTheModeAllows : Prop :=
  ∀ (i : Instr) (s t : State), s.cfg.wellFormed = true → mayLeaveMemory s.cfg i = false → exec i s = .next t →
  t.fault = s.fault ∧ t.phase = s.phase ∧ t.cursor = s.cursor + 1 + i.operands.length

/-- If a step of a running state leads to a faulted one, then the two states differ in the fault mark and the phase alone:
registers, P, PC field, Memory, trace, code and cursor are those left by the last completed instruction, no trailing dump is
made, and the mark holds the cursor and the opcode byte of the faulting instruction. (Spec's own decisions D24 and D27.)
Cites: 60_exceptions.md section 1 (R241, its decision D24; R243, its decision D27); 10_state.md section 5 (R30). -/
def Obligations.FaultsArePrecise : Prop :=
  ∀ s t : State, s.phase = .running → step s = .next t → t.phase = .faulted →
  ∃ k op, s.code[s.cursor]? = some op ∧ t = faultedFrom s k op

/-- In a running state of an admitted configuration, where the bytes of code from the cursor decode to an instruction, step is exec
of that instruction at that same state; step adds nothing around it, for each meaning moves the cursor past its own bytes.
Cites: 40_dispatch.md section 3 (R104, R105, R107). -/
def Obligations.StepRunsTheDecodedInstruction : Prop :=
  ∀ (s : State) (i : Instr) (rest : List Byte), s.cfg.wellFormed = true → s.phase = .running →
  decode s.cfg (s.code.drop s.cursor) = .instr i rest → step s = exec i s

/-- In a running state of an admitted configuration, where the byte at the cursor is not recognised, step answers the next state
that differs from this one in the cursor alone, which is one higher. No register, flag, PC field, Memory cell or trace entry
changes and no error is raised.
Cites: R106. -/
def Obligations.UnrecognisedBytesAreSkipped : Prop :=
  ∀ (s : State) (op : Byte) (r : List Byte), s.cfg.wellFormed = true → s.phase = .running →
  s.code.drop s.cursor = op :: r → recognise s.cfg op = none →
  step s = .next { s with cursor := s.cursor + 1 }

/-- In a running state of an admitted configuration whose cursor is at or past the end of code, step answers the next state in which
the trace has A appended and the phase is done, and nothing else has changed. (That the end of the Run with its dump is a step
of its own is the MODEL'S CHOICE, log 8: R103 and R222 give the end of the Run and its dump, and count no step for them.)
Cites: 40_dispatch.md section 2 (R103); 46_diagnostic.md section 2 (R222, its decision D24); notes/assumptions/8.md (the model's
choice). -/
def Obligations.RunEndsWithTheTrailingDump : Prop :=
  ∀ s : State, s.cfg.wellFormed = true → s.phase = .running → s.code.length ≤ s.cursor →
  step s = .next { s with out := s.out ++ [s.regA], phase := .done }

/-- From a state of an admitted configuration in which no Run executes, the fault mark is clear and the host's call Run([]) waits,
two steps lead to a state whose phase is done, whose trace has exactly A appended, and whose registers, P, PC field, Memory,
fault mark and configuration are as before, and no call waits. (That the start of the Run and its end are two steps, and that a
call waits in State until a step takes it, are the MODEL'S CHOICES, log 8 and log 5; R111 says that the empty list runs no step
of the loop.)
Cites: 40_dispatch.md section 5 (R111); notes/assumptions/5.md and 8.md (the model's choice). -/
def Obligations.EmptyRunOnlyDumps : Prop :=
  ∀ s : State, s.cfg.wellFormed = true → s.phase ≠ .running → s.fault = none → s.runCall = some [] →
  ∃ t, reaches 2 s t ∧ t.phase = .done ∧ t.out = s.out ++ [s.regA] ∧ (∀ q, t.reg q = s.reg q) ∧ t.regP = s.regP ∧
    t.pcField = s.pcField ∧ t.mem = s.mem ∧ t.fault = none ∧ t.cfg = s.cfg ∧ t.runCall = none

/-- In an admitted configuration, when no Run executes: with the fault mark clear and a Run call waiting, step starts that Run with
the cursor at 0 and every register, P, PC field, Memory and trace kept; with a mark set and a call waiting, step refuses it as
RunAfterFault. The MODEL'S CHOICE: that the call waits in State and that the start of the Run is a step of its own (log 5 and
8); with the mark clear and no call the state stays as it is; with a mark set and no call step stops with that record (log 7 and
6).
Cites: 40_dispatch.md section 2 (R102, its decision D24); 60_exceptions.md section 1 (R242, its decision D24);
notes/assumptions/5.md, 6.md, 7.md and 8.md (the model's choice). -/
def Obligations.BetweenRunsTheCoreStartsWaitsOrStops : Prop :=
  ∀ s : State, s.cfg.wellFormed = true → s.phase ≠ .running →
  (∀ c, s.fault = none → s.runCall = some c →
    step s = .next { s with phase := .running, code := c, cursor := 0, runCall := none }) ∧
  (∀ r c, s.fault = some r → s.runCall = some c → step s = .refused .runAfterFault) ∧
  (s.fault = none → s.runCall = none → step s = .next s) ∧
  (∀ r, s.fault = some r → s.runCall = none → step s = .fault (.runFaulted r))

/-- If a step of a running state leads to a running state, the cursor has risen by at least 1 and at most 3 and is at most the
length of code; if it ends the Run, the cursor is as before. Code and configuration are unchanged in both cases: no store
changes what is fetched.
Cites: 10_state.md section 4 (R27, its decision D6); 40_dispatch.md section 4 (R109); 40_dispatch.md section 2 (R103). -/
def Obligations.CursorMovesForwardThroughARun : Prop :=
  ∀ s t : State, s.phase = .running → step s = .next t →
  t.code = s.code ∧ t.cfg = s.cfg ∧
  ((t.phase = .running ∧ s.cursor < t.cursor ∧ t.cursor ≤ s.cursor + 3 ∧ t.cursor ≤ s.code.length) ∨
   (t.phase ≠ .running ∧ t.cursor = s.cursor))

/-- From every running state of an admitted configuration there is a number k of steps, at most the number of code bytes from the
cursor on plus one, after which the Run has ended, Done or Faulted, with no stop on the way. (That the end of the Run with its
dump is a step of its own, the one more of the bound, is the MODEL'S CHOICE, log 8.)
Cites: 40_dispatch.md section 2 (R103); 70_reset_and_hazards.md section 4 (R269); notes/assumptions/8.md (the model's choice). -/
def Obligations.EveryRunEnds : Prop :=
  ∀ s : State, s.cfg.wellFormed = true → s.phase = .running →
  ∃ k t, k ≤ s.code.length - s.cursor + 1 ∧ reaches k s t ∧ (t.phase = .done ∨ t.phase = .faulted)

/-- Take a state of an admitted configuration in which the host can call Run(c). If Run(c) from it completes Done in a state m, and
Run(d), called at m, ends in a state t (Done, or Faulted), then the host can call Run(c ++ d) at the first state, and it ends
the same way in a state u with the same registers, P, PC field and Memory; the trace of t is that of u with the dump of A made
at the end of Run(c) inserted after what Run(c) emitted; and where Run(d) faulted, the fault of u is the same but for its
cursor, which is higher by the length of c. (The call that waits and the steps of a Run that are no instruction are the MODEL'S,
log 5 and log 8.)
Cites: 40_dispatch.md section 5 (R112, derived there from R102, R103 and R107); notes/assumptions/5.md and 8.md (the model's
choice). -/
def Obligations.SuccessiveRunsConcatenate : Prop :=
  ∀ (s s' m m' t : State) (c d : List Byte) (j k : Nat), s.cfg.wellFormed = true →
  hostRun s c = .ok s' → reaches j s' m → m.phase = .done → m.runCall = none →
  hostRun m d = .ok m' → reaches k m' t → t.phase = .done ∨ t.phase = .faulted → t.runCall = none →
  ∃ n s'' u, hostRun s (c ++ d) = .ok s'' ∧ reaches n s'' u ∧
    u.phase = t.phase ∧ u.runCall = none ∧ (∀ q, u.reg q = t.reg q) ∧
    u.regP = t.regP ∧ u.pcField = t.pcField ∧ u.mem = t.mem ∧
    (∃ e f, m.out = s.out ++ e ++ [m.regA] ∧ t.out = m.out ++ f ∧ u.out = s.out ++ e ++ f) ∧
    u.fault = t.fault.map (fun r => { r with cursor := c.length + r.cursor })

/-- Right after reset A, X, Y and S are 0x00, P is P_RESET (0x00 by default), the PC field is 0x0000, every Memory cell reads 0x00,
the trace is empty, the fault mark is none, no Run executes, and the configuration is the default one. (P, the trace, the mark
and the Memory fill are the spec's own decisions D4, D7, D24 and D10.)
Cites: 70_reset_and_hazards.md section 1 (R260, R261, decisions D4, D7, D10, D24); 10_state.md section 1; 00_scope.md section 3. -/
def Obligations.ResetValues : Prop :=
  (∀ q, State.reset.reg q = 0x00#8) ∧ State.reset.regP = 0x00#8 ∧ State.reset.pcField = 0x0000#16 ∧
  (∀ addr, State.reset.mem.read addr = 0x00#8) ∧ State.reset.out = [] ∧ State.reset.fault = none ∧
  State.reset.phase = .idle ∧ State.reset.cfg = Config.default ∧ Config.default.memSize = 65536 ∧
  Config.default.diagZpOpcode = none ∧ Config.default.diagAOpcode = none ∧ Config.default.pointerBytes = .one ∧
  (∀ cfg mem, (State.construct cfg mem).regP = cfg.pReset)

/-- The reset state meets the invariant State.Good, and so does every Cpu constructed in an admitted configuration on a canonical
Memory of MEM_SIZE cells.
Cites: 70_reset_and_hazards.md section 1; 10_state.md section 1. -/
def Obligations.ResetIsGood : Prop :=
  State.reset.Good ∧
  ∀ cfg mem, cfg.wellFormed = true → mem.wf = true → mem.within cfg.memSize = true → (State.construct cfg mem).Good

/-- For every state that meets State.Good, if step answers next, the next state meets it: the configuration is admitted, Memory
keeps its canonical form and lists only cells below MEM_SIZE, the PC field is 0x0000, the cursor never passes the end of code
and equals its length after Done, the Cpu is faulted exactly when the fault mark is set, no Run call waits while a Run executes
or on a faulted Cpu, and the mark names the cursor and the opcode byte of the faulting instruction.
Cites: 10_state.md sections 4 and 5 (R26, R27, R30); 40_dispatch.md section 2 (R103); 60_exceptions.md section 1 (R241, R242);
20_memory.md section 1 (R50) and section 5 (R68). -/
def Obligations.EveryStepKeepsGood : Prop :=
  ∀ s t : State, s.Good → step s = .next t → t.Good

/-- Every step, of an instruction, of a Run or of a fault, leaves the PC field and the configuration as they were and keeps bits 2
to 5 of P; and changing the PC field of a state changes nothing else of what step answers, be it a next state, a stop or a
refusal, so no step reads it. It is 0x0000 at construction. (R26 is of the PC field, R22 of bits 2 to 5 of P, R263 of the
configuration. That the configuration is a field of State is the MODEL'S CHOICE, log 1.)
Cites: 10_state.md section 4 (R26); 10_state.md section 3 (R22); 70_reset_and_hazards.md section 2 (R263);
notes/assumptions/1.md (the model's choice). -/
def Obligations.NoStepWritesPcFieldOrUnusedFlagBits : Prop :=
  (∀ s t : State, step s = .next t →
    t.pcField = s.pcField ∧ t.cfg = s.cfg ∧ ∀ k, 2 ≤ k → k ≤ 5 → t.regP.getLsbD k = s.regP.getLsbD k) ∧
  (∀ (s t : State) (w : Word), step s = .next t → step { s with pcField := w } = .next { t with pcField := w }) ∧
  (∀ (s : State) (r : Fault) (w : Word), step s = .fault r → step { s with pcField := w } = .fault r) ∧
  (∀ (s : State) (r : Refusal) (w : Word), step s = .refused r → step { s with pcField := w } = .refused r) ∧
  (∀ cfg mem, (State.construct cfg mem).pcField = 0x0000#16)

/-- If an instruction leads to a next state in which A differs, it is an LDA, TXA, TYA or ADC; X, an LDX, TAX or TSX; Y, an LDY or
TAY; S, a TXS.
Cites: 10_state.md section 1 (state table) and section 2 (R20). -/
def Obligations.RegistersAreWrittenByTheirTable : Prop :=
  ∀ (i : Instr) (s t : State), exec i s = .next t →
  (t.regA ≠ s.regA →
    familyOf i ∈ [.load .a, .transfer .x .a, .transfer .y .a, .adc]) ∧
  (t.regX ≠ s.regX → familyOf i ∈ [.load .x, .transfer .a .x, .transfer .s .x]) ∧
  (t.regY ≠ s.regY → familyOf i ∈ [.load .y, .transfer .a .y]) ∧
  (t.regS ≠ s.regS → familyOf i = .transfer .x .s)

/-- For every instruction but TSX, changing S in the state before changes nothing in the state after but S itself: none of them
reads S, as a value or as an address.
Cites: 10_state.md section 1 (state table) and section 2 (R20). -/
def Obligations.OnlyTsxReadsS : Prop :=
  ∀ (i : Instr) (s t : State) (v : Byte), i ≠ .tsx → exec i s = .next t →
  ∃ u, exec i { s with regS := v } = .next u ∧ { u with regS := t.regS } = t

/-- For every instruction that completes in a Run (the phase is running before and after): a load or transfer sets Z and N from its
destination's new value and keeps C and V; ADC sets C from the sum, Z from the old A, V from the two signs, N from the result; a
store or a diagnostic keeps P whole; bits 2 to 5 are kept by all. An unrecognised opcode changes no flag. An instruction other
than ADC gives the same registers, Memory, trace, cursor and fault kind whatever P holds, and ADC whatever P holds with the same
C.
Cites: R25. -/
def Obligations.FlagsFollowTheirTable : Prop :=
  (∀ (i : Instr) (s t : State), s.phase = .running → exec i s = .next t → t.phase = .running →
    (∀ k, 2 ≤ k → k ≤ 5 → t.regP.getLsbD k = s.regP.getLsbD k) ∧
    (∀ d, familyOf i = .load d ∨ (∃ q, familyOf i = .transfer q d) →
      t.flag .z = decide (t.reg d = 0#8) ∧ t.flag .n = (t.reg d).getLsbD 7 ∧
      t.flag .c = s.flag .c ∧ t.flag .v = s.flag .v) ∧
    (familyOf i = .adc →
      (∃ v : Byte, t.regA.toNat = (s.regA.toNat + v.toNat + (s.flag .c).toNat) % 256 ∧
        t.flag .c = decide (s.regA.toNat + v.toNat + (s.flag .c).toNat > 255)) ∧
      t.flag .z = decide (s.regA = 0#8) ∧ t.flag .v = (s.regA.getLsbD 7 != t.regA.getLsbD 7) ∧
      t.flag .n = t.regA.getLsbD 7) ∧
    ((∃ r, familyOf i = .store r) ∨ familyOf i = .diagnostic → t.regP = s.regP)) ∧
  (∀ (s t : State) (op : Byte), s.phase = .running → s.fetch = .unrecognised op → step s = .next t → t.regP = s.regP) ∧
  (∀ (i : Instr) (s t : State) (p : Byte), (familyOf i = .adc → p.getLsbD 0 = s.regP.getLsbD 0) → exec i s = .next t →
    ∃ u, exec i { s with regP := p } = .next u ∧ { u with regP := t.regP } = t)

/-- If an instruction other than a store leads to a next state, Memory is unchanged. If a store of register r through mode m (each
of the thirteen, with the address the resolver gives for its mode) leads to a next state, every cell whose address is not that
address reads as before. Memory is assumed in canonical form for the second part, which is an invariant of the model
(EveryStepKeepsGood).
Cites: 20_memory.md sections 1 and 2 (R53, R55, R57); 43_store.md section 1. -/
def Obligations.StoresAloneWriteMemory : Prop :=
  ∀ (s t : State), s.mem.wf = true →
  (∀ i, (∀ r, familyOf i ≠ .store r) → exec i s = .next t → t.mem = s.mem) ∧
  (∀ (i : Instr) (m : AddrMode) (b : Byte) (w : Word), exec i s = .next t →
    (i, m) ∈ ([(.staZp b, .zp b),
      (.staZpx b, .zpx b),
      (.staAbs w, .abs w),
      (.staAbsx w, .absx w),
      (.staAbsy w, .absy w),
      (.staIndx b, .indx b),
      (.staIndy b, .indy b),
      (.stxZp b, .zp b),
      (.stxZpy b, .zpy b),
      (.stxAbs w, .abs w),
      (.styZp b, .zp b),
      (.styZpx b, .zpx b),
      (.styAbs w, .abs w)] : List (Instr × AddrMode)) →
    ∀ ea, s.effectiveAddress m = .ok ea → ∀ addr, addr ≠ ea → t.mem.read addr = s.mem.read addr)

/-- Every step leaves the trace as it was or appends one byte to it. It appends only in a running state, and then either the Run has
come to the end of code and the byte is A, or the instruction is DIAGA and the byte is A, or it is DIAGZP b and the byte is that
of cell b.
Cites: 10_state.md section 5 (R29, its decision D7); 46_diagnostic.md section 2 (R222, R223). -/
def Obligations.TraceGrowsByDiagnosticsAndDumpOnly : Prop :=
  ∀ s t : State, step s = .next t →
  t.out = s.out ∨
  (s.phase = .running ∧ ∃ v, t.out = s.out ++ [v] ∧
    ((s.fetch = .endOfCode ∧ v = s.regA) ∨ (∃ rest, s.fetch = .instr .diaga rest ∧ v = s.regA) ∨
     (∃ b rest, s.fetch = .instr (.diagzp b) rest ∧ v = s.mem.read b.toNat)))

/-- Take two running states alike in configuration, A, X, Y, S, the bits of P other than 2 to 5, Memory, code and cursor, whatever
their PC fields, bits 2 to 5 of P, traces, fault marks and waiting call. If step answers a next state of the first, it answers
one of the second, the two next states are alike in the same way, the two steps append the same bytes to the trace, and where
the step takes a fault the two fault records are equal.
Cites: 40_dispatch.md section 3 (R108); 10_state.md section 5 (R31). -/
def Obligations.StepDependsOnItsInputsOnly : Prop :=
  ∀ s t s' : State, SameInputs s t → s.phase = .running → step s = .next s' →
  ∃ t' e, step t = .next t' ∧ SameInputs s' t' ∧ s'.out = s.out ++ e ∧ t'.out = t.out ++ e ∧
    (s'.phase = .faulted → s'.fault = t'.fault)

/-- In every state, with any Memory put in place of its own: the immediate mode resolves to its byte, zero page to its address byte
(0 to 0xFF), zero page,X and zero page,Y to the sum of the address byte and the index register mod 256, absolute to its 16-bit
address, lo + 256 * hi. For every recognised opcode with one operand byte the decoder gives its mode the byte after the opcode,
and for every one with two it takes the first as lo and the second as hi. The Memory plays no part, so the resolver makes no
access. The immediate and zero-page modes have one operand byte, absolute two.
Cites: R121; R122; R123; R124; R125. -/
def Obligations.DirectModesResolve : Prop :=
  ∀ (s : State) (m : Memory) (b lo hi : Byte),
  { s with mem := m }.resolve (.imm b) = .ok (.value b) ∧
  { s with mem := m }.resolve (.mem (.zp b)) = .ok (.addr b.toNat) ∧ b.toNat ≤ 0xFF ∧
  { s with mem := m }.resolve (.mem (.zpx b)) = .ok (.addr ((b.toNat + s.regX.toNat) % 256)) ∧
  { s with mem := m }.resolve (.mem (.zpy b)) = .ok (.addr ((b.toNat + s.regY.toNat) % 256)) ∧
  { s with mem := m }.resolve (.mem (.abs (wordOf lo hi))) = .ok (.addr (lo.toNat + 256 * hi.toNat)) ∧
  lo.toNat + 256 * hi.toNat ≤ 0xFFFF ∧
  (Operand.imm b).operandBytes = 1 ∧ (AddrMode.zp b).operandBytes = 1 ∧ (AddrMode.zpx b).operandBytes = 1 ∧
  (AddrMode.zpy b).operandBytes = 1 ∧ (AddrMode.abs (wordOf lo hi)).operandBytes = 2 ∧
  ∀ (cfg : Config) (op : Byte) (r : List Byte),
    (∀ mk, recognise cfg op = some (.f2 mk) → decode cfg (op :: b :: r) = .instr (mk b) r) ∧
    (∀ mk, recognise cfg op = some (.f3 mk) → decode cfg (op :: lo :: hi :: r) = .instr (mk (wordOf lo hi)) r)

/-- In an admitted configuration: absolute,X and absolute,Y resolve to the base plus the index register as a natural number; (zp,X)
to the pointer at zero-page location (b + X) mod 256; (zp),Y to the pointer at b plus Y as a natural number. A pointer is one
byte, or two bytes low first with the second at the next zero-page location, as the configuration says. None of these faults in
the resolver. (The absence of a wrap and the pointer width are the spec's own decisions D18 to D20.)
Cites: 41_addressing.md section 2 (R126 to R130, decisions D18, D19, D20). -/
def Obligations.IndexedAndIndirectModesResolve : Prop :=
  ∀ (s : State) (b : Byte) (w : Word), s.cfg.wellFormed = true →
  s.effectiveAddress (.absx w) = .ok (w.toNat + s.regX.toNat) ∧
  s.effectiveAddress (.absy w) = .ok (w.toNat + s.regY.toNat) ∧
  (s.cfg.pointerBytes = .one →
    s.effectiveAddress (.indx b) = .ok (s.mem.read ((b.toNat + s.regX.toNat) % 256)).toNat ∧
    s.effectiveAddress (.indy b) = .ok ((s.mem.read b.toNat).toNat + s.regY.toNat)) ∧
  (s.cfg.pointerBytes = .two →
    s.effectiveAddress (.indx b) =
      .ok ((s.mem.read ((b.toNat + s.regX.toNat) % 256)).toNat +
        256 * (s.mem.read ((b.toNat + s.regX.toNat + 1) % 256)).toNat) ∧
    s.effectiveAddress (.indy b) =
      .ok ((s.mem.read b.toNat).toNat + 256 * (s.mem.read ((b.toNat + 1) % 256)).toNat + s.regY.toNat))

/-- In every state a zero-page access at b and an absolute access at b read as a 16-bit value are the same: the same byte is read,
and the same store is made. Addresses are unsigned, so the 16-bit form of every word w is the natural number below 65536 that w
is.
Cites: 20_memory.md section 1 (R52, its decision D11 for unsigned); 30_encoding.md section 2. -/
def Obligations.EightAndSixteenBitIndicesAlias : Prop :=
  ∀ (s : State) (b v : Byte),
  s.operandValue (.mem (.zp b)) = s.operandValue (.mem (.abs (zext16 b))) ∧
  s.storeTo (.zp b) v = s.storeTo (.abs (zext16 b)) v ∧
  ∀ w : Word, s.effectiveAddress (.abs w) = .ok w.toNat

/-- For every state whose Memory is in canonical form: a write in range succeeds, the state after it keeps the canonical form, reads
the value at that address and every other address as before; a read or write at or above MEM_SIZE answers AddressOutOfRange with
the address and the access kind. The canonical form is an invariant of the model (EveryStepKeepsGood).
Cites: 20_memory.md section 2 (R56, R57, decision D9) and section 5 (R63, decision D12). -/
def Obligations.MemoryReadsTheLastWrite : Prop :=
  ∀ (s : State) (addr : Nat) (v : Byte), s.mem.wf = true →
  (addr < s.cfg.memSize →
    ∃ t, s.memWrite addr v = .ok t ∧ t.mem.wf = true ∧ t.memRead addr = .ok v ∧
      ∀ other, other ≠ addr → t.memRead other = s.memRead other) ∧
  (s.cfg.memSize ≤ addr →
    s.memRead addr = .error (.addressOutOfRange addr .read) ∧
    s.memWrite addr v = .error (.addressOutOfRange addr .write))

/-- The MODEL'S representation (log 4): for any two Memories in canonical form, if every address reads the same in both, they are
equal as data.
Cites: 20_memory.md section 1 (R50, R51); notes/assumptions/4.md (the model's canonical form). -/
def Obligations.EqualReadsMakeEqualMemories : Prop :=
  ∀ m n : Memory, m.wf = true → n.wf = true → (∀ addr, m.read addr = n.read addr) → m = n

/-- From the call of a Run to its return (a call waits, or a Run executes) the host's read and write of Memory are refused at every
address, and so is every further call of Run. Before a Run is invoked and after it returns (no Run executes and no call waits),
at an address below MEM_SIZE, the read answers the cell and the write sets it and nothing else. (R68 says when the host may act.
That a Run call waits in State until a step takes it is the MODEL'S CHOICE, log 5; that the host's acts are functions which
refuse outside that time, a second call of Run included, is the MODEL'S CHOICE, log 22.)
Cites: 20_memory.md section 5 (R68); notes/assumptions/5.md and 22.md (the model's choice). -/
def Obligations.HostTouchesMemoryBetweenRunsOnly : Prop :=
  ∀ (s : State) (addr : Nat) (v : Byte) (code : List Byte),
  (s.phase = .running ∨ s.runCall ≠ none →
    hostRead s addr = .error .hostDuringRun ∧ hostWrite s addr v = .error .hostDuringRun ∧
    hostRun s code = .error .hostDuringRun) ∧
  (s.phase ≠ .running → s.runCall = none → addr < s.cfg.memSize →
    hostRead s addr = .ok (s.mem.read addr) ∧ hostWrite s addr v = .ok { s with mem := s.mem.write addr v })

/-- A launch in a configuration that is not admitted is refused as badConfiguration, whatever the Cpus. In an admitted
configuration, a launch in which two Cpus at different places of the list are bound to one Memory handle is refused as
sharedMemory. A launch in which all handles differ and every Memory is a canonical Memory of MEM_SIZE cells gives, for each Cpu,
the constructed state on its own Memory, and each meets State.Good. (That the model refuses a shared Memory is the spec's own
decision D13.)
Cites: 20_memory.md section 5 (R67, its decision D13); 40_dispatch.md section 5 (R110); 30_encoding.md section 3 (R85);
60_exceptions.md section 4 (R250); 70_reset_and_hazards.md section 2 (R263). -/
def Obligations.SharedMemoryLaunchesAreRefused : Prop :=
  ∀ (cfg : Config) (cpus : List (Nat × Memory)),
  (cfg.wellFormed = false → launch cfg cpus = .error .badConfiguration) ∧
  (∀ (i j h : Nat) (m n : Memory), cfg.wellFormed = true → i < j → cpus[i]? = some (h, m) → cpus[j]? = some (h, n) →
    launch cfg cpus = .error .sharedMemory) ∧
  (cfg.wellFormed = true → (cpus.map Prod.fst).Nodup → (∀ c ∈ cpus, c.2.wf = true ∧ c.2.within cfg.memSize = true) →
    launch cfg cpus = .ok (cpus.map (fun c => State.construct cfg c.2)) ∧
    ∀ c ∈ cpus, (State.construct cfg c.2).Good)

/-- When no Run executes and no call waits: on a Cpu whose fault mark is clear the host's call of Run(code) is accepted, and the
state differs in the call that waits alone; on a Cpu whose fault mark is set the call is refused as RunAfterFault. (That the
call waits in State until a step takes it, and that the host's act is a function which refuses, are the MODEL'S CHOICES, log 5
and log 22.)
Cites: 40_dispatch.md section 1 (R100) and section 2 (R102, its decision D24); 60_exceptions.md section 1 (R242, its decision
D24); notes/assumptions/5.md and 22.md (the model's choice). -/
def Obligations.HostRunIsOneCallBetweenRuns : Prop :=
  ∀ (s : State) (code : List Byte), s.phase ≠ .running → s.runCall = none →
  (s.fault = none → hostRun s code = .ok { s with runCall := some code }) ∧
  (∀ r, s.fault = some r → hostRun s code = .error .runAfterFault)

/-- For every state that meets State.Good, if the host's write of a cell or its call of Run succeeds, the state it leads to meets
State.Good: Memory keeps its canonical form within MEM_SIZE cells, and the call waits neither during a Run nor on a faulted Cpu.
With EveryStepKeepsGood, no act of the core or of the host leaves State.Good. (The call that waits and the host's acts as
functions are the MODEL'S CHOICES, log 5 and log 22.)
Cites: 20_memory.md section 1 (R50, R51) and section 5 (R68); 40_dispatch.md section 1 (R100); 60_exceptions.md section 1
(R242); notes/assumptions/5.md and 22.md (the model's choice). -/
def Obligations.HostActsKeepGood : Prop :=
  ∀ s t : State, s.Good →
  (∃ addr v, hostWrite s addr v = .ok t) ∨ (∃ code, hostRun s code = .ok t) → t.Good
end

