-- ==== Sys2Proof/Laws/Decode.lean ====
section
/-! SUPPORT. Byte order and the shape of what the decoder reads (spec/30_encoding.md). -/

namespace Sys2Proof

/-- 20_memory.md R58: the two bytes of a word, low first, make the word again. -/
@[simp] theorem wordOf_low_high (w : Word) : wordOf (lowByte w) (highByte w) = w := by
  apply BitVec.eq_of_getLsbD_eq
  intro k hk
  simp only [wordOf, lowByte, highByte, BitVec.getLsbD_append, BitVec.getLsbD_setWidth, BitVec.getLsbD_ushiftRight]
  by_cases h : k < 8
  · simp [h]
  · simp [h, show k - 8 < 8 by omega, show 8 + (k - 8) = k by omega]

@[simp] theorem lowByte_wordOf (lo hi : Byte) : lowByte (wordOf lo hi) = lo := by
  apply BitVec.eq_of_getLsbD_eq
  intro k hk
  simp only [wordOf, lowByte, BitVec.getLsbD_setWidth, BitVec.getLsbD_append, hk, decide_true, Bool.true_and, if_true]

@[simp] theorem highByte_wordOf (lo hi : Byte) : highByte (wordOf lo hi) = hi := by
  apply BitVec.eq_of_getLsbD_eq
  intro k hk
  simp only [wordOf, highByte, BitVec.getLsbD_setWidth, BitVec.getLsbD_ushiftRight, BitVec.getLsbD_append, hk, decide_true,
    Bool.true_and, show ¬ 8 + k < 8 by omega, if_false, Nat.add_sub_cancel_left]

/-- R58: `lo + 256 * hi`. -/
theorem toNat_wordOf (lo hi : Byte) : (wordOf lo hi).toNat = lo.toNat + 256 * hi.toNat := by
  have := lo.isLt
  simp only [wordOf, BitVec.toNat_append, Nat.shiftLeft_eq]
  rw [← Nat.shiftLeft_eq, ← Nat.shiftLeft_add_eq_or_of_lt lo.isLt, Nat.shiftLeft_eq]
  omega

/-- R107: a form reads its operand bytes, or the instruction is truncated. -/
theorem Form.read_of_le (f : Form) (op : Byte) (r : List Byte) (h : f.operandBytes ≤ r.length) :
    ∃ i, f.read op r = .instr i (r.drop f.operandBytes) := by
  cases f with
  | f1 i => exact ⟨i, rfl⟩
  | f2 mk =>
    match r, h with
    | b :: rest, _ => exact ⟨mk b, rfl⟩
  | f3 mk =>
    match r, h with
    | b :: c :: rest, _ => exact ⟨mk (wordOf b c), rfl⟩

theorem Form.read_of_lt (f : Form) (op : Byte) (r : List Byte) (h : r.length < f.operandBytes) :
    f.read op r = .truncated op := by
  cases f with
  | f1 i => exact absurd h (Nat.not_lt_zero _)
  | f2 mk =>
    match r, h with
    | [], _ => rfl
  | f3 mk =>
    match r, h with
    | [], _ => rfl
    | [_], _ => rfl

/-- R85: the decoder at an opcode byte it recognises. -/
theorem decode_cons (cfg : Config) (op : Byte) (r : List Byte) (f : Form) (h : recognise cfg op = some f) :
    decode cfg (op :: r) = f.read op r := by
  simp [decode, h]

end Sys2Proof
end

