-- ==== Sys2Proof/Laws/Flags.lean ====
section
/-! SUPPORT. What the flag operations do to P, bit by bit (spec/10_state.md R22, R24; spec/45_adc.md R200). -/

namespace Sys2Proof.Machine

/-- 00_scope.md R7: a flag write writes its own bit and leaves the other seven. -/
theorem getLsbD_setFlag (p : Byte) (f : Flag) (b : Bool) (k : Nat) :
    (setFlag p f b).getLsbD k = if k = f.bit then b else p.getLsbD k := by
  have hbit : f.bit < 8 := by cases f <;> decide
  unfold setFlag
  by_cases hk : k < 8
  · cases b <;>
      simp only [if_true, if_false, Bool.false_eq_true, BitVec.getLsbD_or, BitVec.getLsbD_and, BitVec.getLsbD_not,
        BitVec.getLsbD_shiftLeft, BitVec.getLsbD_one, hk] <;>
      by_cases h : k = f.bit <;> simp [h, hbit] <;> omega
  · have hne : k ≠ f.bit := by omega
    simp [hne, BitVec.getLsbD_of_ge _ k (Nat.not_lt.1 hk)]

/-- R24: `setZN` writes Z and N and no other bit. -/
theorem getLsbD_setZN (p v : Byte) (k : Nat) :
    (setZN p v).getLsbD k =
      if k = 7 then v.getLsbD 7 else if k = 1 then decide (v = 0#8) else p.getLsbD k := by
  simp only [setZN, getLsbD_setFlag, Flag.bit, isNegative]
  rfl

/-- R200: ADC writes C, Z, V and N and keeps bits 2 to 5. -/
theorem getLsbD_adcFlags (p a v : Byte) (k : Nat) :
    (adcFlags p a v).getLsbD k =
      if k = 7 then (adcResult p a v).getLsbD 7
      else if k = 6 then (a.getLsbD 7 != (adcResult p a v).getLsbD 7)
      else if k = 1 then decide (a = 0#8)
      else if k = 0 then decide (255 < adcSum p a v)
      else p.getLsbD k := by
  simp only [adcFlags, getLsbD_setFlag, Flag.bit, isNegative]
  rfl

/-! ### Each flag by name -/

theorem flagOf_setFlag (p : Byte) (f g : Flag) (b : Bool) : flagOf (setFlag p f b) g = if g = f then b else flagOf p g := by
  simp only [flagOf, getLsbD_setFlag]
  cases f <;> cases g <;> rfl

theorem flagOf_setZN_z (p v : Byte) : flagOf (setZN p v) .z = decide (v = 0#8) := getLsbD_setZN p v 1

theorem flagOf_setZN_n (p v : Byte) : flagOf (setZN p v) .n = v.getLsbD 7 := getLsbD_setZN p v 7

theorem flagOf_setZN_c (p v : Byte) : flagOf (setZN p v) .c = flagOf p .c := getLsbD_setZN p v 0

theorem flagOf_setZN_v (p v : Byte) : flagOf (setZN p v) .v = flagOf p .v := getLsbD_setZN p v 6

theorem flagOf_adcFlags_c (p a v : Byte) : flagOf (adcFlags p a v) .c = decide (255 < adcSum p a v) :=
  getLsbD_adcFlags p a v 0

theorem flagOf_adcFlags_z (p a v : Byte) : flagOf (adcFlags p a v) .z = decide (a = 0#8) := getLsbD_adcFlags p a v 1

theorem flagOf_adcFlags_v (p a v : Byte) :
    flagOf (adcFlags p a v) .v = (a.getLsbD 7 != (adcResult p a v).getLsbD 7) := getLsbD_adcFlags p a v 6

theorem flagOf_adcFlags_n (p a v : Byte) : flagOf (adcFlags p a v) .n = (adcResult p a v).getLsbD 7 :=
  getLsbD_adcFlags p a v 7

/-- R22: bits 2 to 5 stay as they are. -/
theorem setZN_unused (p v : Byte) (k : Nat) (h2 : 2 ≤ k) (h5 : k ≤ 5) : (setZN p v).getLsbD k = p.getLsbD k := by
  rw [getLsbD_setZN, if_neg (by omega), if_neg (by omega)]

theorem adcFlags_unused (p a v : Byte) (k : Nat) (h2 : 2 ≤ k) (h5 : k ≤ 5) :
    (adcFlags p a v).getLsbD k = p.getLsbD k := by
  rw [getLsbD_adcFlags, if_neg (by omega), if_neg (by omega), if_neg (by omega), if_neg (by omega)]

/-- R200: the stored sum is the whole sum mod 256. -/
theorem toNat_adcResult (p a v : Byte) : (adcResult p a v).toNat = adcSum p a v % 256 := by
  simp [adcResult]

/-- R200: the sum depends on P through the carry alone. -/
theorem adcSum_congr (p q a v : Byte) (h : p.getLsbD 0 = q.getLsbD 0) : adcSum p a v = adcSum q a v := by
  simp only [adcSum, flagOf, Flag.bit, h]

end Sys2Proof.Machine
end

