-- ==== Sys2Proof/Laws/State.lean ====
section
/-! SUPPORT. One lemma for each field of State and each update, true by rfl, so that no proof unfolds a record update. -/

namespace Sys2Proof.Machine

variable (s : State)

/-! ### `State.setReg` -/

@[simp] theorem setReg_a_regA (v : Byte) : (s.setReg .a v).regA = v := rfl
@[simp] theorem setReg_a_regX (v : Byte) : (s.setReg .a v).regX = s.regX := rfl
@[simp] theorem setReg_a_regY (v : Byte) : (s.setReg .a v).regY = s.regY := rfl
@[simp] theorem setReg_a_regS (v : Byte) : (s.setReg .a v).regS = s.regS := rfl
@[simp] theorem setReg_x_regA (v : Byte) : (s.setReg .x v).regA = s.regA := rfl
@[simp] theorem setReg_x_regX (v : Byte) : (s.setReg .x v).regX = v := rfl
@[simp] theorem setReg_x_regY (v : Byte) : (s.setReg .x v).regY = s.regY := rfl
@[simp] theorem setReg_x_regS (v : Byte) : (s.setReg .x v).regS = s.regS := rfl
@[simp] theorem setReg_y_regA (v : Byte) : (s.setReg .y v).regA = s.regA := rfl
@[simp] theorem setReg_y_regX (v : Byte) : (s.setReg .y v).regX = s.regX := rfl
@[simp] theorem setReg_y_regY (v : Byte) : (s.setReg .y v).regY = v := rfl
@[simp] theorem setReg_y_regS (v : Byte) : (s.setReg .y v).regS = s.regS := rfl
@[simp] theorem setReg_s_regA (v : Byte) : (s.setReg .s v).regA = s.regA := rfl
@[simp] theorem setReg_s_regX (v : Byte) : (s.setReg .s v).regX = s.regX := rfl
@[simp] theorem setReg_s_regY (v : Byte) : (s.setReg .s v).regY = s.regY := rfl
@[simp] theorem setReg_s_regS (v : Byte) : (s.setReg .s v).regS = v := rfl
@[simp] theorem setReg_cfg (r : Reg) (v : Byte) : (s.setReg r v).cfg = s.cfg := by cases r <;> rfl
@[simp] theorem setReg_regP (r : Reg) (v : Byte) : (s.setReg r v).regP = s.regP := by cases r <;> rfl
@[simp] theorem setReg_pcField (r : Reg) (v : Byte) : (s.setReg r v).pcField = s.pcField := by cases r <;> rfl
@[simp] theorem setReg_mem (r : Reg) (v : Byte) : (s.setReg r v).mem = s.mem := by cases r <;> rfl
@[simp] theorem setReg_out (r : Reg) (v : Byte) : (s.setReg r v).out = s.out := by cases r <;> rfl
@[simp] theorem setReg_fault (r : Reg) (v : Byte) : (s.setReg r v).fault = s.fault := by cases r <;> rfl
@[simp] theorem setReg_phase (r : Reg) (v : Byte) : (s.setReg r v).phase = s.phase := by cases r <;> rfl
@[simp] theorem setReg_code (r : Reg) (v : Byte) : (s.setReg r v).code = s.code := by cases r <;> rfl
@[simp] theorem setReg_cursor (r : Reg) (v : Byte) : (s.setReg r v).cursor = s.cursor := by cases r <;> rfl
@[simp] theorem setReg_runCall (r : Reg) (v : Byte) : (s.setReg r v).runCall = s.runCall := by cases r <;> rfl
@[simp] theorem setReg_reg (r q : Reg) (v : Byte) : (s.setReg r v).reg q = if q = r then v else s.reg q := by
  cases r <;> cases q <;> rfl

/-! ### `State.setP` -/

@[simp] theorem setP_cfg (p : Byte) : (s.setP p).cfg = s.cfg := rfl
@[simp] theorem setP_regA (p : Byte) : (s.setP p).regA = s.regA := rfl
@[simp] theorem setP_regX (p : Byte) : (s.setP p).regX = s.regX := rfl
@[simp] theorem setP_regY (p : Byte) : (s.setP p).regY = s.regY := rfl
@[simp] theorem setP_regS (p : Byte) : (s.setP p).regS = s.regS := rfl
@[simp] theorem setP_regP (p : Byte) : (s.setP p).regP = p := rfl
@[simp] theorem setP_pcField (p : Byte) : (s.setP p).pcField = s.pcField := rfl
@[simp] theorem setP_mem (p : Byte) : (s.setP p).mem = s.mem := rfl
@[simp] theorem setP_out (p : Byte) : (s.setP p).out = s.out := rfl
@[simp] theorem setP_fault (p : Byte) : (s.setP p).fault = s.fault := rfl
@[simp] theorem setP_phase (p : Byte) : (s.setP p).phase = s.phase := rfl
@[simp] theorem setP_code (p : Byte) : (s.setP p).code = s.code := rfl
@[simp] theorem setP_cursor (p : Byte) : (s.setP p).cursor = s.cursor := rfl
@[simp] theorem setP_runCall (p : Byte) : (s.setP p).runCall = s.runCall := rfl
@[simp] theorem setP_reg (p : Byte) (q : Reg) : (s.setP p).reg q = s.reg q := by cases q <;> rfl

/-! ### `State.advance` -/

@[simp] theorem advance_cfg (n : Nat) : (s.advance n).cfg = s.cfg := rfl
@[simp] theorem advance_regA (n : Nat) : (s.advance n).regA = s.regA := rfl
@[simp] theorem advance_regX (n : Nat) : (s.advance n).regX = s.regX := rfl
@[simp] theorem advance_regY (n : Nat) : (s.advance n).regY = s.regY := rfl
@[simp] theorem advance_regS (n : Nat) : (s.advance n).regS = s.regS := rfl
@[simp] theorem advance_regP (n : Nat) : (s.advance n).regP = s.regP := rfl
@[simp] theorem advance_pcField (n : Nat) : (s.advance n).pcField = s.pcField := rfl
@[simp] theorem advance_mem (n : Nat) : (s.advance n).mem = s.mem := rfl
@[simp] theorem advance_out (n : Nat) : (s.advance n).out = s.out := rfl
@[simp] theorem advance_fault (n : Nat) : (s.advance n).fault = s.fault := rfl
@[simp] theorem advance_phase (n : Nat) : (s.advance n).phase = s.phase := rfl
@[simp] theorem advance_code (n : Nat) : (s.advance n).code = s.code := rfl
@[simp] theorem advance_cursor (n : Nat) : (s.advance n).cursor = s.cursor + n + 1 := rfl
@[simp] theorem advance_runCall (n : Nat) : (s.advance n).runCall = s.runCall := rfl
@[simp] theorem advance_reg (n : Nat) (q : Reg) : (s.advance n).reg q = s.reg q := by cases q <;> rfl

/-! ### `State.emit` -/

@[simp] theorem emit_cfg (v : Byte) : (s.emit v).cfg = s.cfg := rfl
@[simp] theorem emit_regA (v : Byte) : (s.emit v).regA = s.regA := rfl
@[simp] theorem emit_regX (v : Byte) : (s.emit v).regX = s.regX := rfl
@[simp] theorem emit_regY (v : Byte) : (s.emit v).regY = s.regY := rfl
@[simp] theorem emit_regS (v : Byte) : (s.emit v).regS = s.regS := rfl
@[simp] theorem emit_regP (v : Byte) : (s.emit v).regP = s.regP := rfl
@[simp] theorem emit_pcField (v : Byte) : (s.emit v).pcField = s.pcField := rfl
@[simp] theorem emit_mem (v : Byte) : (s.emit v).mem = s.mem := rfl
@[simp] theorem emit_out (v : Byte) : (s.emit v).out = s.out ++ [v] := rfl
@[simp] theorem emit_fault (v : Byte) : (s.emit v).fault = s.fault := rfl
@[simp] theorem emit_phase (v : Byte) : (s.emit v).phase = s.phase := rfl
@[simp] theorem emit_code (v : Byte) : (s.emit v).code = s.code := rfl
@[simp] theorem emit_cursor (v : Byte) : (s.emit v).cursor = s.cursor := rfl
@[simp] theorem emit_runCall (v : Byte) : (s.emit v).runCall = s.runCall := rfl
@[simp] theorem emit_reg (v : Byte) (q : Reg) : (s.emit v).reg q = s.reg q := by cases q <;> rfl

/-! ### `State.takeFault` -/

@[simp] theorem takeFault_cfg (k : FaultKind) : (s.takeFault k).cfg = s.cfg := rfl
@[simp] theorem takeFault_regA (k : FaultKind) : (s.takeFault k).regA = s.regA := rfl
@[simp] theorem takeFault_regX (k : FaultKind) : (s.takeFault k).regX = s.regX := rfl
@[simp] theorem takeFault_regY (k : FaultKind) : (s.takeFault k).regY = s.regY := rfl
@[simp] theorem takeFault_regS (k : FaultKind) : (s.takeFault k).regS = s.regS := rfl
@[simp] theorem takeFault_regP (k : FaultKind) : (s.takeFault k).regP = s.regP := rfl
@[simp] theorem takeFault_pcField (k : FaultKind) : (s.takeFault k).pcField = s.pcField := rfl
@[simp] theorem takeFault_mem (k : FaultKind) : (s.takeFault k).mem = s.mem := rfl
@[simp] theorem takeFault_out (k : FaultKind) : (s.takeFault k).out = s.out := rfl
@[simp] theorem takeFault_fault (k : FaultKind) : (s.takeFault k).fault = some { kind := k, cursor := s.cursor, opcode := s.opcodeByte } := rfl
@[simp] theorem takeFault_phase (k : FaultKind) : (s.takeFault k).phase = .faulted := rfl
@[simp] theorem takeFault_code (k : FaultKind) : (s.takeFault k).code = s.code := rfl
@[simp] theorem takeFault_cursor (k : FaultKind) : (s.takeFault k).cursor = s.cursor := rfl
@[simp] theorem takeFault_runCall (k : FaultKind) : (s.takeFault k).runCall = s.runCall := rfl
@[simp] theorem takeFault_reg (k : FaultKind) (q : Reg) : (s.takeFault k).reg q = s.reg q := by cases q <;> rfl

/-! ### `State.callRun` -/

@[simp] theorem callRun_cfg (c : List Byte) : (s.callRun c).cfg = s.cfg := rfl
@[simp] theorem callRun_regA (c : List Byte) : (s.callRun c).regA = s.regA := rfl
@[simp] theorem callRun_regX (c : List Byte) : (s.callRun c).regX = s.regX := rfl
@[simp] theorem callRun_regY (c : List Byte) : (s.callRun c).regY = s.regY := rfl
@[simp] theorem callRun_regS (c : List Byte) : (s.callRun c).regS = s.regS := rfl
@[simp] theorem callRun_regP (c : List Byte) : (s.callRun c).regP = s.regP := rfl
@[simp] theorem callRun_pcField (c : List Byte) : (s.callRun c).pcField = s.pcField := rfl
@[simp] theorem callRun_mem (c : List Byte) : (s.callRun c).mem = s.mem := rfl
@[simp] theorem callRun_out (c : List Byte) : (s.callRun c).out = s.out := rfl
@[simp] theorem callRun_fault (c : List Byte) : (s.callRun c).fault = s.fault := rfl
@[simp] theorem callRun_phase (c : List Byte) : (s.callRun c).phase = s.phase := rfl
@[simp] theorem callRun_code (c : List Byte) : (s.callRun c).code = s.code := rfl
@[simp] theorem callRun_cursor (c : List Byte) : (s.callRun c).cursor = s.cursor := rfl
@[simp] theorem callRun_runCall (c : List Byte) : (s.callRun c).runCall = some c := rfl

/-! ### `State.startRun` -/

@[simp] theorem startRun_cfg (c : List Byte) : (s.startRun c).cfg = s.cfg := rfl
@[simp] theorem startRun_regA (c : List Byte) : (s.startRun c).regA = s.regA := rfl
@[simp] theorem startRun_regX (c : List Byte) : (s.startRun c).regX = s.regX := rfl
@[simp] theorem startRun_regY (c : List Byte) : (s.startRun c).regY = s.regY := rfl
@[simp] theorem startRun_regS (c : List Byte) : (s.startRun c).regS = s.regS := rfl
@[simp] theorem startRun_regP (c : List Byte) : (s.startRun c).regP = s.regP := rfl
@[simp] theorem startRun_pcField (c : List Byte) : (s.startRun c).pcField = s.pcField := rfl
@[simp] theorem startRun_mem (c : List Byte) : (s.startRun c).mem = s.mem := rfl
@[simp] theorem startRun_out (c : List Byte) : (s.startRun c).out = s.out := rfl
@[simp] theorem startRun_fault (c : List Byte) : (s.startRun c).fault = s.fault := rfl
@[simp] theorem startRun_phase (c : List Byte) : (s.startRun c).phase = .running := rfl
@[simp] theorem startRun_code (c : List Byte) : (s.startRun c).code = c := rfl
@[simp] theorem startRun_cursor (c : List Byte) : (s.startRun c).cursor = 0 := rfl
@[simp] theorem startRun_runCall (c : List Byte) : (s.startRun c).runCall = none := rfl

/-! ### `State.finishRun` -/

@[simp] theorem finishRun_cfg : (s.finishRun).cfg = s.cfg := rfl
@[simp] theorem finishRun_regA : (s.finishRun).regA = s.regA := rfl
@[simp] theorem finishRun_regX : (s.finishRun).regX = s.regX := rfl
@[simp] theorem finishRun_regY : (s.finishRun).regY = s.regY := rfl
@[simp] theorem finishRun_regS : (s.finishRun).regS = s.regS := rfl
@[simp] theorem finishRun_regP : (s.finishRun).regP = s.regP := rfl
@[simp] theorem finishRun_pcField : (s.finishRun).pcField = s.pcField := rfl
@[simp] theorem finishRun_mem : (s.finishRun).mem = s.mem := rfl
@[simp] theorem finishRun_out : (s.finishRun).out = s.out ++ [s.regA] := rfl
@[simp] theorem finishRun_fault : (s.finishRun).fault = s.fault := rfl
@[simp] theorem finishRun_phase : (s.finishRun).phase = .done := rfl
@[simp] theorem finishRun_code : (s.finishRun).code = s.code := rfl
@[simp] theorem finishRun_cursor : (s.finishRun).cursor = s.cursor := rfl
@[simp] theorem finishRun_runCall : (s.finishRun).runCall = s.runCall := rfl

/-! ### `State.skipByte` -/

@[simp] theorem skipByte_cfg : (s.skipByte).cfg = s.cfg := rfl
@[simp] theorem skipByte_regA : (s.skipByte).regA = s.regA := rfl
@[simp] theorem skipByte_regX : (s.skipByte).regX = s.regX := rfl
@[simp] theorem skipByte_regY : (s.skipByte).regY = s.regY := rfl
@[simp] theorem skipByte_regS : (s.skipByte).regS = s.regS := rfl
@[simp] theorem skipByte_regP : (s.skipByte).regP = s.regP := rfl
@[simp] theorem skipByte_pcField : (s.skipByte).pcField = s.pcField := rfl
@[simp] theorem skipByte_mem : (s.skipByte).mem = s.mem := rfl
@[simp] theorem skipByte_out : (s.skipByte).out = s.out := rfl
@[simp] theorem skipByte_fault : (s.skipByte).fault = s.fault := rfl
@[simp] theorem skipByte_phase : (s.skipByte).phase = s.phase := rfl
@[simp] theorem skipByte_code : (s.skipByte).code = s.code := rfl
@[simp] theorem skipByte_cursor : (s.skipByte).cursor = s.cursor + 1 := rfl
@[simp] theorem skipByte_runCall : (s.skipByte).runCall = s.runCall := rfl

/-! ### `State.withFetchWord` -/

@[simp] theorem withFetchWord_cfg (nbits w : Nat) : (s.withFetchWord nbits w).cfg = s.cfg := rfl
@[simp] theorem withFetchWord_regA (nbits w : Nat) : (s.withFetchWord nbits w).regA = s.regA := rfl
@[simp] theorem withFetchWord_regX (nbits w : Nat) : (s.withFetchWord nbits w).regX = s.regX := rfl
@[simp] theorem withFetchWord_regY (nbits w : Nat) : (s.withFetchWord nbits w).regY = s.regY := rfl
@[simp] theorem withFetchWord_regS (nbits w : Nat) : (s.withFetchWord nbits w).regS = s.regS := rfl
@[simp] theorem withFetchWord_regP (nbits w : Nat) : (s.withFetchWord nbits w).regP = s.regP := rfl
@[simp] theorem withFetchWord_pcField (nbits w : Nat) : (s.withFetchWord nbits w).pcField = s.pcField := rfl
@[simp] theorem withFetchWord_mem (nbits w : Nat) : (s.withFetchWord nbits w).mem = s.mem := rfl
@[simp] theorem withFetchWord_out (nbits w : Nat) : (s.withFetchWord nbits w).out = s.out := rfl
@[simp] theorem withFetchWord_fault (nbits w : Nat) : (s.withFetchWord nbits w).fault = s.fault := rfl
@[simp] theorem withFetchWord_phase (nbits w : Nat) : (s.withFetchWord nbits w).phase = .running := rfl
@[simp] theorem withFetchWord_code (nbits w : Nat) : (s.withFetchWord nbits w).code = tableBytes nbits w := rfl
@[simp] theorem withFetchWord_cursor (nbits w : Nat) : (s.withFetchWord nbits w).cursor = 0 := rfl
@[simp] theorem withFetchWord_runCall (nbits w : Nat) : (s.withFetchWord nbits w).runCall = s.runCall := rfl

/-! ### The register accessor -/

@[simp] theorem reg_a : s.reg .a = s.regA := rfl
@[simp] theorem reg_x : s.reg .x = s.regX := rfl
@[simp] theorem reg_y : s.reg .y = s.regY := rfl
@[simp] theorem reg_s : s.reg .s = s.regS := rfl

end Sys2Proof.Machine
end

