-- ==== Sys2Proof/Laws/HostPort.lean ====
section
/-! SUPPORT. Everything the host's operations can do and succeed (spec/20_memory.md R68). -/

namespace Sys2Proof.Machine

/-- R68: when the host may act. -/
theorem hostMayAct_iff (s : State) : s.hostMayAct = true ↔ s.phase ≠ .running ∧ s.runCall = none := by
  simp [State.hostMayAct]

/-- Everything a host write can do and succeed. -/
theorem hostWrite_cases (s t : State) (addr : Nat) (v : Byte) (h : hostWrite s addr v = .ok t) :
    (s.phase ≠ .running ∧ s.runCall = none) ∧ addr < s.cfg.memSize ∧ t = { s with mem := s.mem.write addr v } := by
  unfold hostWrite at h
  split at h
  · next ha =>
    split at h
    · next hlt => exact ⟨(hostMayAct_iff s).1 ha, hlt, by cases h; rfl⟩
    · cases h
  · cases h

/-- Everything a Run call can do and succeed. -/
theorem hostRun_cases (s t : State) (code : List Byte) (h : hostRun s code = .ok t) :
    (s.phase ≠ .running ∧ s.runCall = none) ∧ s.fault = none ∧ t = s.callRun code := by
  unfold hostRun at h
  split at h
  · next ha =>
    split at h
    · next hf => exact ⟨(hostMayAct_iff s).1 ha, hf, by cases h; rfl⟩
    · cases h
  · cases h

end Sys2Proof.Machine
end

