-- ==== Sys2Proof/Laws/Operands.lean ====
section
/-! SUPPORT. What the resolver and the data accesses answer, in an admitted configuration (spec/41_addressing.md). -/

namespace Sys2Proof.Machine

/-- The bounds on MEM_SIZE of an admitted configuration (00_scope.md R5). -/
theorem wellFormed_memSize (cfg : Config) (h : cfg.wellFormed = true) : 256 ≤ cfg.memSize ∧ cfg.memSize ≤ 65536 := by
  simp only [Config.wellFormed, Bool.and_eq_true, decide_eq_true_eq] at h
  exact ⟨h.1.1.1.1.1, h.1.1.1.1.2⟩

/-- 20_memory.md R56: a read in range. -/
theorem memRead_ok (s : State) (a : Nat) (h : a < s.cfg.memSize) : s.memRead a = .ok (s.mem.read a) := by
  simp [State.memRead, Nat.not_le.2 h]

/-- R56: a read out of range. -/
theorem memRead_error (s : State) (a : Nat) (h : s.cfg.memSize ≤ a) :
    s.memRead a = .error (.addressOutOfRange a .read) := by
  simp [State.memRead, h]

/-- R57: a write in range. -/
theorem memWrite_ok (s : State) (a : Nat) (v : Byte) (h : a < s.cfg.memSize) :
    s.memWrite a v = .ok { s with mem := s.mem.write a v } := by
  simp [State.memWrite, Nat.not_le.2 h]

/-- R57: a write out of range. -/
theorem memWrite_error (s : State) (a : Nat) (v : Byte) (h : s.cfg.memSize ≤ a) :
    s.memWrite a v = .error (.addressOutOfRange a .write) := by
  simp [State.memWrite, h]

/-- R128: a pointer read never faults when MEM_SIZE holds the zero page (20_memory.md R54). -/
theorem ptrRead_ok (s : State) (p : Byte) (h : 256 ≤ s.cfg.memSize) : s.ptrRead p = .ok (pointerAt s p) := by
  have hp := p.isLt
  have hsum : (p + 1#8).toNat = (p.toNat + 1) % 256 := by simp [BitVec.toNat_add]
  have hhi := memRead_ok s ((p.toNat + 1) % 256) (by omega)
  unfold State.ptrRead pointerAt
  split <;> rename_i hw
  · simp only [memRead_ok s p.toNat (by omega), hw]
  · simp only [memRead_ok s p.toNat (by omega), hsum, hhi, hw]

/-- R122 to R130: the effective address of each mode, as a number. -/
def addressOf (s : State) : AddrMode → Nat
  | .zp b => b.toNat
  | .zpx b => (b.toNat + s.regX.toNat) % 256
  | .zpy b => (b.toNat + s.regY.toNat) % 256
  | .abs w => w.toNat
  | .absx w => w.toNat + s.regX.toNat
  | .absy w => w.toNat + s.regY.toNat
  | .indx b => pointerAt s (b + s.regX)
  | .indy b => pointerAt s b + s.regY.toNat

/-- The resolver never faults, and answers that address. -/
theorem effectiveAddress_ok (s : State) (m : AddrMode) (h : 256 ≤ s.cfg.memSize) :
    s.effectiveAddress m = .ok (addressOf s m) := by
  cases m <;> simp [State.effectiveAddress, addressOf, ptrRead_ok s _ h, BitVec.toNat_add]

/-- R120: a value in range. -/
theorem operandValue_ok (s : State) (m : AddrMode) (h : 256 ≤ s.cfg.memSize) (ha : addressOf s m < s.cfg.memSize) :
    s.operandValue (.mem m) = .ok (s.mem.read (addressOf s m)) := by
  simp [State.operandValue, State.resolve, effectiveAddress_ok s m h, memRead_ok s _ ha]

/-- R120: a value out of range. -/
theorem operandValue_error (s : State) (m : AddrMode) (h : 256 ≤ s.cfg.memSize) (ha : s.cfg.memSize ≤ addressOf s m) :
    s.operandValue (.mem m) = .error (.addressOutOfRange (addressOf s m) .read) := by
  simp [State.operandValue, State.resolve, effectiveAddress_ok s m h, memRead_error s _ ha]

/-- R121: the immediate value. -/
@[simp] theorem operandValue_imm (s : State) (v : Byte) : s.operandValue (.imm v) = .ok v := rfl

/-- R120: a store in range. -/
theorem storeTo_ok (s : State) (m : AddrMode) (v : Byte) (h : 256 ≤ s.cfg.memSize) (ha : addressOf s m < s.cfg.memSize) :
    s.storeTo m v = .ok { s with mem := s.mem.write (addressOf s m) v } := by
  simp [State.storeTo, effectiveAddress_ok s m h, memWrite_ok s _ _ ha]

/-- R120: a store out of range. -/
theorem storeTo_error (s : State) (m : AddrMode) (v : Byte) (h : 256 ≤ s.cfg.memSize)
    (ha : s.cfg.memSize ≤ addressOf s m) :
    s.storeTo m v = .error (.addressOutOfRange (addressOf s m) .write) := by
  simp [State.storeTo, effectiveAddress_ok s m h, memWrite_error s _ _ ha]

/-- Everything a read can do. -/
theorem memRead_cases (s : State) (a : Nat) :
    (∃ v, s.memRead a = .ok v) ∨
    ∃ ea, s.cfg.memSize ≤ ea ∧ s.memRead a = .error (.addressOutOfRange ea .read) := by
  by_cases h : s.cfg.memSize ≤ a
  · exact .inr ⟨a, h, memRead_error s a h⟩
  · exact .inl ⟨_, memRead_ok s a (Nat.not_le.1 h)⟩

/-- Everything a pointer read can do, in any configuration. -/
theorem ptrRead_cases (s : State) (p : Byte) :
    (∃ n, s.ptrRead p = .ok n) ∨
    ∃ ea, s.cfg.memSize ≤ ea ∧ s.ptrRead p = .error (.addressOutOfRange ea .read) := by
  unfold State.ptrRead
  split <;> rcases memRead_cases s p.toNat with ⟨v, hv⟩ | ⟨ea, hea, he⟩
  · exact .inl ⟨_, by rw [hv]⟩
  · exact .inr ⟨ea, hea, by rw [he]⟩
  · rcases memRead_cases s (p + 1#8).toNat with ⟨u, hu⟩ | ⟨ea, hea, he⟩
    · exact .inl ⟨_, by rw [hv, hu]⟩
    · exact .inr ⟨ea, hea, by rw [hv, he]⟩
  · exact .inr ⟨ea, hea, by rw [he]⟩

/-- Everything the resolver can do, in any configuration. -/
theorem effectiveAddress_cases (s : State) (m : AddrMode) :
    (∃ n, s.effectiveAddress m = .ok n) ∨
    ∃ ea, s.cfg.memSize ≤ ea ∧ s.effectiveAddress m = .error (.addressOutOfRange ea .read) := by
  cases m with
  | indx b => exact ptrRead_cases s _
  | indy b =>
    rcases ptrRead_cases s b with ⟨n, hn⟩ | ⟨ea, hea, he⟩
    · exact .inl ⟨_, by simp [State.effectiveAddress, hn]; rfl⟩
    · exact .inr ⟨ea, hea, by simp [State.effectiveAddress, he]⟩
  | _ => exact .inl ⟨_, rfl⟩

/-- Everything reading an operand can do, in any configuration: a byte, or an address out of range on a read. -/
theorem operandValue_cases (s : State) (o : Operand) :
    (∃ v, s.operandValue o = .ok v) ∨
    ∃ ea, s.cfg.memSize ≤ ea ∧ s.operandValue o = .error (.addressOutOfRange ea .read) := by
  cases o with
  | imm v => exact .inl ⟨v, rfl⟩
  | mem m =>
    rcases effectiveAddress_cases s m with ⟨n, hn⟩ | ⟨ea, hea, he⟩
    · simpa [State.operandValue, State.resolve, hn] using memRead_cases s n
    · exact .inr ⟨ea, hea, by simp [State.operandValue, State.resolve, he]⟩

/-- Everything a store can do, in any configuration: one cell written at the resolved address, or an address out of range. -/
theorem storeTo_cases (s : State) (m : AddrMode) (v : Byte) :
    (∃ ea, s.effectiveAddress m = .ok ea ∧ ea < s.cfg.memSize ∧
      s.storeTo m v = .ok { s with mem := s.mem.write ea v }) ∨
    ∃ ea k, s.cfg.memSize ≤ ea ∧ s.storeTo m v = .error (.addressOutOfRange ea k) := by
  rcases effectiveAddress_cases s m with ⟨n, hn⟩ | ⟨ea, hea, he⟩
  · by_cases h : s.cfg.memSize ≤ n
    · exact .inr ⟨n, .write, h, by simp [State.storeTo, hn, memWrite_error s n v h]⟩
    · exact .inl ⟨n, hn, Nat.not_le.1 h, by simp [State.storeTo, hn, memWrite_ok s n v (Nat.not_le.1 h)]⟩
  · exact .inr ⟨ea, .read, hea, by simp [State.storeTo, he]⟩

end Sys2Proof.Machine
end

