-- ==== Sys2Proof/Laws/Meanings.lean ====
section
/-! SUPPORT. Everything each shared operation of the meanings can do: its own next state, or the fault taken. -/

namespace Sys2Proof.Machine

/-- 42_load.md R140: a load completes with the byte its operand reads, or takes an address fault. -/
theorem load_cases (r : Reg) (o : Operand) (s : State) :
    (∃ v, s.operandValue o = .ok v ∧ load r o s = .next (s.loaded r v o.operandBytes)) ∨
    ∃ ea, s.cfg.memSize ≤ ea ∧ load r o s = .next (s.takeFault (.addressOutOfRange ea .read)) := by
  rcases operandValue_cases s o with ⟨v, hv⟩ | ⟨ea, hea, he⟩
  · exact .inl ⟨v, hv, by simp [load, hv, State.complete]⟩
  · exact .inr ⟨ea, hea, by simp [load, he, State.complete]⟩

/-- 43_store.md R170: a store completes with one cell written, or takes an address fault. -/
theorem store_cases (r : Reg) (m : AddrMode) (s : State) :
    (∃ ea, s.effectiveAddress m = .ok ea ∧ ea < s.cfg.memSize ∧
      store r m s = .next ({ s with mem := s.mem.write ea (s.reg r) }.advance m.operandBytes)) ∨
    ∃ ea k, s.cfg.memSize ≤ ea ∧ store r m s = .next (s.takeFault (.addressOutOfRange ea k)) := by
  rcases storeTo_cases s m (s.reg r) with ⟨ea, hea, hlt, hs⟩ | ⟨ea, k, hea, he⟩
  · exact .inl ⟨ea, hea, hlt, by simp [store, hs, State.complete]⟩
  · exact .inr ⟨ea, k, hea, by simp [store, he, State.complete]⟩

/-- 45_adc.md R200: ADC completes with the sum of A and the byte its operand reads, or takes an address fault. -/
theorem adc_cases (o : Operand) (s : State) :
    (∃ v, s.operandValue o = .ok v ∧ adc o s = .next ((s.add v).advance o.operandBytes)) ∨
    ∃ ea, s.cfg.memSize ≤ ea ∧ adc o s = .next (s.takeFault (.addressOutOfRange ea .read)) := by
  rcases operandValue_cases s o with ⟨v, hv⟩ | ⟨ea, hea, he⟩
  · exact .inl ⟨v, hv, by simp [adc, hv, State.complete]⟩
  · exact .inr ⟨ea, hea, by simp [adc, he, State.complete]⟩

/-- 46_diagnostic.md R220: DIAGZP completes with the cell emitted, or takes an address fault. -/
theorem emitCell_cases (b : Byte) (s : State) :
    (∃ v, s.operandValue (.mem (.zp b)) = .ok v ∧ emitCell b s = .next ((s.emit v).advance 1)) ∨
    ∃ ea, s.cfg.memSize ≤ ea ∧ emitCell b s = .next (s.takeFault (.addressOutOfRange ea .read)) := by
  rcases operandValue_cases s (.mem (.zp b)) with ⟨v, hv⟩ | ⟨ea, hea, he⟩
  · exact .inl ⟨v, hv, by simp [emitCell, hv, State.complete]⟩
  · exact .inr ⟨ea, hea, by simp [emitCell, he, State.complete]⟩

/-- A load in range, in an admitted configuration. -/
theorem load_next (r : Reg) (m : AddrMode) (s : State) (h : 256 ≤ s.cfg.memSize) (ha : addressOf s m < s.cfg.memSize) :
    load r (.mem m) s = .next (s.loaded r (s.mem.read (addressOf s m)) m.operandBytes) := by
  simp [load, operandValue_ok s m h ha, State.complete, Operand.operandBytes]

/-- A store in range, in an admitted configuration. -/
theorem store_next (r : Reg) (m : AddrMode) (s : State) (h : 256 ≤ s.cfg.memSize) (ha : addressOf s m < s.cfg.memSize) :
    store r m s = .next ({ s with mem := s.mem.write (addressOf s m) (s.reg r) }.advance m.operandBytes) := by
  simp [store, storeTo_ok s m _ h ha, State.complete]

/-- ADC of an operand in range, in an admitted configuration. -/
theorem adc_next (m : AddrMode) (s : State) (h : 256 ≤ s.cfg.memSize) (ha : addressOf s m < s.cfg.memSize) :
    adc (.mem m) s = .next ((s.add (s.mem.read (addressOf s m))).advance m.operandBytes) := by
  simp [adc, operandValue_ok s m h ha, State.complete, Operand.operandBytes]

end Sys2Proof.Machine
end

