-- ==== Sys2Proof/Laws/Memory.lean ====
section
/-! SUPPORT. The laws of Memory: the canonical form is kept, and read after write. -/

namespace Sys2Proof.Machine

/-- The canonical form as a proposition, for induction over the list. -/
theorem Memory.wf_iff (m : Memory) :
    m.wf = true ↔ m.Pairwise (fun c d => c.1 < d.1) ∧ ∀ c ∈ m, c.2 ≠ unlistedByte := by
  simp [Memory.wf, List.all_eq_true]

theorem Memory.wf_cons (k : Nat) (b : Byte) (m : Memory) :
    Memory.wf ((k, b) :: m) = true ↔ (∀ c ∈ m, k < c.1) ∧ b ≠ unlistedByte ∧ m.wf = true := by
  simp only [Memory.wf_iff, List.pairwise_cons, List.forall_mem_cons]
  tauto

/-- An address below every listed one is unlisted. -/
theorem Memory.read_unlisted (m : Memory) (a : Nat) (h : ∀ c ∈ m, c.1 ≠ a) : m.read a = unlistedByte := by
  induction m with
  | nil => rfl
  | cons c rest ih =>
    obtain ⟨k, b⟩ := c
    have hk : k ≠ a := h (k, b) (by simp)
    simp only [Memory.read, hk, if_false]
    exact ih fun d hd => h d (by simp [hd])

theorem Memory.read_put (a : Nat) (v : Byte) (rest : Memory) (x : Nat) (h : ∀ c ∈ rest, c.1 ≠ a) :
    (Memory.put a v rest).read x = if x = a then v else rest.read x := by
  unfold Memory.put
  split
  · split
    · next hv hx => subst hv hx; exact Memory.read_unlisted rest _ h
    · rfl
  · simp only [Memory.read, eq_comm (a := a)]

/-- What a write leaves listed: the written address or an address listed before. -/
theorem Memory.mem_write (m : Memory) (a : Nat) (v : Byte) (c : Host.Cell) (h : c ∈ m.write a v) :
    c = (a, v) ∧ v ≠ unlistedByte ∨ c ∈ m := by
  induction m with
  | nil =>
    simp only [Memory.write, Memory.put] at h
    split at h <;> simp_all
  | cons d rest ih =>
    obtain ⟨k, b⟩ := d
    simp only [Memory.write] at h
    split at h
    · simp only [Memory.put] at h
      split at h <;> simp_all
    · split at h
      · simp only [Memory.put] at h
        split at h
        · simp [h]
        · rcases List.mem_cons.1 h with h | h
          · exact .inl ⟨h, ‹_›⟩
          · exact .inr (by simp [h])
      · rcases List.mem_cons.1 h with h | h
        · exact .inr (by simp [h])
        · rcases ih h with h | h
          · exact .inl h
          · exact .inr (by simp [h])

/-- A write keeps the canonical form. -/
theorem Memory.write_wf (m : Memory) (a : Nat) (v : Byte) (h : m.wf = true) : (m.write a v).wf = true := by
  induction m with
  | nil =>
    simp only [Memory.write, Memory.put]
    split
    · exact h
    · next hv => exact (Memory.wf_cons a v []).2 ⟨by simp, hv, rfl⟩
  | cons d rest ih =>
    obtain ⟨k, b⟩ := d
    obtain ⟨hk, hb, hrest⟩ := (Memory.wf_cons k b rest).1 h
    simp only [Memory.write]
    split
    · next hlt =>
      unfold Memory.put
      split
      · exact h
      · next hv =>
        refine (Memory.wf_cons a v _).2 ⟨?_, hv, h⟩
        intro c hc
        rcases List.mem_cons.1 hc with rfl | hc
        · exact hlt
        · exact hlt.trans (hk c hc)
    · split
      · next _ heq =>
        subst heq
        unfold Memory.put
        split
        · exact hrest
        · next hv => exact (Memory.wf_cons a v rest).2 ⟨hk, hv, hrest⟩
      · next hlt hne =>
        refine (Memory.wf_cons k b _).2 ⟨?_, hb, ih hrest⟩
        intro c hc
        rcases Memory.mem_write rest a v c hc with ⟨rfl, _⟩ | hc
        · show k < a
          omega
        · exact hk c hc

/-- Read after write: the written cell reads the value, every other cell as before. -/
theorem Memory.read_write (m : Memory) (a : Nat) (v : Byte) (x : Nat) (h : m.wf = true) :
    (m.write a v).read x = if x = a then v else m.read x := by
  induction m with
  | nil => exact Memory.read_put a v [] x (by simp)
  | cons d rest ih =>
    obtain ⟨k, b⟩ := d
    obtain ⟨hk, hb, hrest⟩ := (Memory.wf_cons k b rest).1 h
    simp only [Memory.write]
    split
    · next hlt =>
      refine Memory.read_put a v _ x ?_
      intro c hc
      rcases List.mem_cons.1 hc with rfl | hc
      · exact (Nat.ne_of_lt hlt).symm
      · have := hk c hc
        omega
    · split
      · next _ heq =>
        subst heq
        rw [Memory.read_put a v rest x (fun c hc => (Nat.ne_of_lt (hk c hc)).symm)]
        by_cases hx : x = a
        · simp [hx]
        · simp [hx, Memory.read, Ne.symm hx]
      · next hlt hne =>
        simp only [Memory.read, ih hrest]
        by_cases hx : k = x
        · subst hx
          simp [Ne.symm hne]
        · simp [hx]

/-- A write below `size` keeps every listed cell below `size`. -/
theorem Memory.write_within (m : Memory) (a : Nat) (v : Byte) (size : Nat) (ha : a < size) (h : m.within size = true) :
    (m.write a v).within size = true := by
  simp only [Memory.within, List.all_eq_true, decide_eq_true_eq] at h ⊢
  intro c hc
  rcases Memory.mem_write m a v c hc with ⟨rfl, _⟩ | hc
  · exact ha
  · exact h c hc

end Sys2Proof.Machine
end

