-- ==== Sys2Proof/Laws/PerInstr.lean ====
section
/-! SUPPORT. Facts of every instruction as syntax, one lemma for each constructor. -/

namespace Sys2Proof.Laws.EncodedLength

/-- 30_encoding.md R80, R81: an instruction has 0, 1 or 2 operand bytes, and its encoding is one byte longer. -/
def Statement (i : Instr) : Prop :=
  i.operands.length ≤ 2 ∧ ∀ cfg bytes, encode cfg i = some bytes → bytes.length = i.operands.length + 1

/-- The second half needs no case split: the encoder puts one opcode byte before the operand bytes. -/
theorem encode_length (i : Instr) (cfg : Config) (bytes : List Byte) (h : encode cfg i = some bytes) :
    bytes.length = i.operands.length + 1 := by
  obtain ⟨op, -, rfl⟩ := Option.map_eq_some_iff.1 h
  rfl

theorem ldaImm (v : Byte) : Statement (.ldaImm v) := ⟨Nat.le_of_ble_eq_true rfl, encode_length _⟩
theorem ldaZp (b : Byte) : Statement (.ldaZp b) := ⟨Nat.le_of_ble_eq_true rfl, encode_length _⟩
theorem ldaZpx (b : Byte) : Statement (.ldaZpx b) := ⟨Nat.le_of_ble_eq_true rfl, encode_length _⟩
theorem ldaAbs (w : Word) : Statement (.ldaAbs w) := ⟨Nat.le_of_ble_eq_true rfl, encode_length _⟩
theorem ldaAbsx (w : Word) : Statement (.ldaAbsx w) := ⟨Nat.le_of_ble_eq_true rfl, encode_length _⟩
theorem ldaAbsy (w : Word) : Statement (.ldaAbsy w) := ⟨Nat.le_of_ble_eq_true rfl, encode_length _⟩
theorem ldaIndx (b : Byte) : Statement (.ldaIndx b) := ⟨Nat.le_of_ble_eq_true rfl, encode_length _⟩
theorem ldaIndy (b : Byte) : Statement (.ldaIndy b) := ⟨Nat.le_of_ble_eq_true rfl, encode_length _⟩
theorem ldxImm (v : Byte) : Statement (.ldxImm v) := ⟨Nat.le_of_ble_eq_true rfl, encode_length _⟩
theorem ldxZp (b : Byte) : Statement (.ldxZp b) := ⟨Nat.le_of_ble_eq_true rfl, encode_length _⟩
theorem ldxZpy (b : Byte) : Statement (.ldxZpy b) := ⟨Nat.le_of_ble_eq_true rfl, encode_length _⟩
theorem ldxAbs (w : Word) : Statement (.ldxAbs w) := ⟨Nat.le_of_ble_eq_true rfl, encode_length _⟩
theorem ldxAbsy (w : Word) : Statement (.ldxAbsy w) := ⟨Nat.le_of_ble_eq_true rfl, encode_length _⟩
theorem ldyImm (v : Byte) : Statement (.ldyImm v) := ⟨Nat.le_of_ble_eq_true rfl, encode_length _⟩
theorem ldyZp (b : Byte) : Statement (.ldyZp b) := ⟨Nat.le_of_ble_eq_true rfl, encode_length _⟩
theorem ldyZpx (b : Byte) : Statement (.ldyZpx b) := ⟨Nat.le_of_ble_eq_true rfl, encode_length _⟩
theorem ldyAbs (w : Word) : Statement (.ldyAbs w) := ⟨Nat.le_of_ble_eq_true rfl, encode_length _⟩
theorem ldyAbsx (w : Word) : Statement (.ldyAbsx w) := ⟨Nat.le_of_ble_eq_true rfl, encode_length _⟩
theorem staZp (b : Byte) : Statement (.staZp b) := ⟨Nat.le_of_ble_eq_true rfl, encode_length _⟩
theorem staZpx (b : Byte) : Statement (.staZpx b) := ⟨Nat.le_of_ble_eq_true rfl, encode_length _⟩
theorem staAbs (w : Word) : Statement (.staAbs w) := ⟨Nat.le_of_ble_eq_true rfl, encode_length _⟩
theorem staAbsx (w : Word) : Statement (.staAbsx w) := ⟨Nat.le_of_ble_eq_true rfl, encode_length _⟩
theorem staAbsy (w : Word) : Statement (.staAbsy w) := ⟨Nat.le_of_ble_eq_true rfl, encode_length _⟩
theorem staIndx (b : Byte) : Statement (.staIndx b) := ⟨Nat.le_of_ble_eq_true rfl, encode_length _⟩
theorem staIndy (b : Byte) : Statement (.staIndy b) := ⟨Nat.le_of_ble_eq_true rfl, encode_length _⟩
theorem stxZp (b : Byte) : Statement (.stxZp b) := ⟨Nat.le_of_ble_eq_true rfl, encode_length _⟩
theorem stxZpy (b : Byte) : Statement (.stxZpy b) := ⟨Nat.le_of_ble_eq_true rfl, encode_length _⟩
theorem stxAbs (w : Word) : Statement (.stxAbs w) := ⟨Nat.le_of_ble_eq_true rfl, encode_length _⟩
theorem styZp (b : Byte) : Statement (.styZp b) := ⟨Nat.le_of_ble_eq_true rfl, encode_length _⟩
theorem styZpx (b : Byte) : Statement (.styZpx b) := ⟨Nat.le_of_ble_eq_true rfl, encode_length _⟩
theorem styAbs (w : Word) : Statement (.styAbs w) := ⟨Nat.le_of_ble_eq_true rfl, encode_length _⟩
theorem tax : Statement (.tax) := ⟨Nat.le_of_ble_eq_true rfl, encode_length _⟩
theorem tay : Statement (.tay) := ⟨Nat.le_of_ble_eq_true rfl, encode_length _⟩
theorem tsx : Statement (.tsx) := ⟨Nat.le_of_ble_eq_true rfl, encode_length _⟩
theorem txa : Statement (.txa) := ⟨Nat.le_of_ble_eq_true rfl, encode_length _⟩
theorem txs : Statement (.txs) := ⟨Nat.le_of_ble_eq_true rfl, encode_length _⟩
theorem tya : Statement (.tya) := ⟨Nat.le_of_ble_eq_true rfl, encode_length _⟩
theorem adcImm (v : Byte) : Statement (.adcImm v) := ⟨Nat.le_of_ble_eq_true rfl, encode_length _⟩
theorem adcZp (b : Byte) : Statement (.adcZp b) := ⟨Nat.le_of_ble_eq_true rfl, encode_length _⟩
theorem adcZpx (b : Byte) : Statement (.adcZpx b) := ⟨Nat.le_of_ble_eq_true rfl, encode_length _⟩
theorem adcAbs (w : Word) : Statement (.adcAbs w) := ⟨Nat.le_of_ble_eq_true rfl, encode_length _⟩
theorem adcAbsx (w : Word) : Statement (.adcAbsx w) := ⟨Nat.le_of_ble_eq_true rfl, encode_length _⟩
theorem adcAbsy (w : Word) : Statement (.adcAbsy w) := ⟨Nat.le_of_ble_eq_true rfl, encode_length _⟩
theorem adcIndx (b : Byte) : Statement (.adcIndx b) := ⟨Nat.le_of_ble_eq_true rfl, encode_length _⟩
theorem adcIndy (b : Byte) : Statement (.adcIndy b) := ⟨Nat.le_of_ble_eq_true rfl, encode_length _⟩
theorem diagzp (b : Byte) : Statement (.diagzp b) := ⟨Nat.le_of_ble_eq_true rfl, encode_length _⟩
theorem diaga : Statement (.diaga) := ⟨Nat.le_of_ble_eq_true rfl, encode_length _⟩

end Sys2Proof.Laws.EncodedLength
end

