-- ==== Sys2Proof/Laws/Step.lean ====
section
/-! SUPPORT. Everything a step can do (spec/40_dispatch.md R102 to R107). -/

namespace Sys2Proof.Machine

/-- Everything a step of a Run can do. -/
theorem stepRun_cases (s t : State) (h : stepRun s = .next t) :
    (s.fetch = .endOfCode ∧ t = s.finishRun) ∨
    (∃ op, s.fetch = .unrecognised op ∧ t = s.skipByte) ∨
    (∃ op, s.fetch = .truncated op ∧ t = s.takeFault .truncatedInstruction) ∨
    ∃ i rest, s.fetch = .instr i rest ∧ exec i s = .next t := by
  unfold stepRun at h
  split at h
  · next hf => exact .inl ⟨hf, by cases h; rfl⟩
  · next op hf => exact .inr (.inl ⟨op, hf, by cases h; rfl⟩)
  · next op hf => exact .inr (.inr (.inl ⟨op, hf, by cases h; rfl⟩))
  · next i rest hf => exact .inr (.inr (.inr ⟨i, rest, hf, h⟩))

/-- Everything the core can do between Runs and go on. -/
theorem betweenRuns_cases (s t : State) (h : s.betweenRuns = .next t) :
    s.fault = none ∧ (s.runCall = none ∧ t = s ∨ ∃ code, s.runCall = some code ∧ t = s.startRun code) := by
  unfold State.betweenRuns at h
  split at h <;> first | (next hf hq => exact ⟨hf, .inl ⟨hq, by cases h; rfl⟩⟩) | skip
  · next code hf hq => exact ⟨hf, .inr ⟨code, hq, by cases h; rfl⟩⟩
  · cases h
  · cases h

/-- Everything a step can do and go on. -/
theorem step_cases (s t : State) (h : step s = .next t) :
    s.cfg.wellFormed = true ∧
      (s.phase = .running ∧ stepRun s = .next t ∨ s.phase ≠ .running ∧ s.betweenRuns = .next t) := by
  unfold step at h
  split at h
  · next hc =>
    refine ⟨hc, ?_⟩
    split at h
    · next hp => exact .inl ⟨hp, h⟩
    · next hp => exact .inr ⟨by simp [hp], h⟩
    · next hp => exact .inr ⟨by simp [hp], h⟩
    · next hp => exact .inr ⟨by simp [hp], h⟩
  · cases h

/-- A step of a Run, in an admitted configuration. -/
theorem step_running (s : State) (hc : s.cfg.wellFormed = true) (hp : s.phase = .running) : step s = stepRun s := by
  simp [step, hc, hp]

/-- A step between Runs, in an admitted configuration. -/
theorem step_between (s : State) (hc : s.cfg.wellFormed = true) (hp : s.phase ≠ .running) : step s = s.betweenRuns := by
  unfold step
  cases h : s.phase <;> simp_all

/-- 30_encoding.md R85: any other configuration is refused. -/
theorem step_badConfiguration (s : State) (hc : s.cfg.wellFormed = false) : step s = .refused .badConfiguration := by
  simp [step, hc]

end Sys2Proof.Machine
end

