-- ==== Sys2Proof/Tests/Slice0.lean ====
section
/-! SUPPORT. Tests of the model. Every expected value is from spec/, by the vector or rule its docstring names.
Section 5 shows, for each statement with hypotheses, a state and operands that meet them, at boundary values. -/

namespace Sys2Proof.Tests

open Sys2Proof.Machine

/-! ### Helpers -/

/-- A configuration with both diagnostic opcodes present, at the example bytes of spec/95_test_vectors.md section 2.5. -/
def diagCfg : Config := { Config.default with diagZpOpcode := some 0xFF#8, diagAOpcode := some 0xFE#8 }

/-- The default configuration with two-byte pointers (41_addressing.md R128). -/
def ptr2Cfg : Config := { Config.default with pointerBytes := .two }

/-- MEM_SIZE = 2048 with two-byte pointers. -/
def smallCfg : Config := { Config.default with memSize := 2048, pointerBytes := .two }

/-- A Cpu with A, X, Y, S, P and the listed Memory cells set by the host. -/
def cpu (cfg : Config) (a x y sp p : Byte) (cells : Memory) : State :=
  { State.construct cfg cells with regA := a, regX := x, regY := y, regS := sp, regP := p }

/-- A Run of `code` that executes, at its first byte. -/
def running (s : State) (code : List Byte) : State := { s with phase := .running, code := code }

/-- Whether an outcome is a next state with a property. -/
def leads (o : Host.Outcome State Fault Refusal) (p : State → Bool) : Bool :=
  match o with
  | .next t => p t
  | .fault _ => false
  | .refused _ => false

/-- Whether one step of a Run of `code` leads to a state with a property. -/
def runs (s : State) (code : List Byte) (p : State → Bool) : Bool := leads (step (running s code)) p

/-- The state after `k` steps, if none stops. -/
def after : Nat → State → Option State
  | 0, s => some s
  | k + 1, s =>
    match step s with
    | .next t => after k t
    | .fault _ => none
    | .refused _ => none

theorem reaches_after : ∀ (k : Nat) (s t : State), after k s = some t → reaches k s t
  | 0, _, _, h => Option.some.inj h
  | k + 1, s, t, h => by
    unfold after at h
    split at h
    · next u hu => exact ⟨u, hu, reaches_after k u t h⟩
    · cases h
    · cases h

/-! ### 1. WellFormed refuses each ill-formed term (00_scope.md R5, 30_encoding.md R84 and R85) -/

/-- The default configuration is admitted. -/
theorem test_wf_default :
    Config.default.wellFormed = true ∧ diagCfg.wellFormed = true ∧ smallCfg.wellFormed = true := by decide

/-- MEM_SIZE 255 is refused and 256 admitted. -/
theorem test_wf_memSize_low :
    { Config.default with memSize := 255 }.wellFormed = false ∧ { Config.default with memSize := 256 }.wellFormed = true := by decide

/-- MEM_SIZE 65537 is refused. -/
theorem test_wf_memSize_high :
    { Config.default with memSize := 65537 }.wellFormed = false := by decide

/-- OPCODE_SET with the byte 0x02, which is outside the table, is refused. -/
theorem test_wf_opcodeSet_foreign :
    { Config.default with opcodeSet := [0x02#8] }.wellFormed = false := by decide

/-- An OPCODE_SET that is not in rising order, or lists a byte twice, is refused; a smaller set is admitted. -/
theorem test_wf_opcodeSet_order :
    { Config.default with opcodeSet := [0xA9#8, 0x61#8] }.wellFormed = false ∧
    { Config.default with opcodeSet := [0xA9#8, 0xA9#8] }.wellFormed = false ∧
    { Config.default with opcodeSet := [0x61#8, 0xA9#8] }.wellFormed = true := by decide

/-- A DIAG_ZP_OPCODE inside OPCODE_SET is refused. -/
theorem test_wf_diagZp_inside :
    { Config.default with diagZpOpcode := some 0xA9#8 }.wellFormed = false := by decide

/-- A DIAG_A_OPCODE inside OPCODE_SET is refused. -/
theorem test_wf_diagA_inside :
    { Config.default with diagAOpcode := some 0xA9#8 }.wellFormed = false := by decide

/-- Equal diagnostic opcodes are refused. -/
theorem test_wf_diag_equal :
    { Config.default with diagZpOpcode := some 0xFF#8, diagAOpcode := some 0xFF#8 }.wellFormed = false := by decide

/-- DIAGZP and DIAGA are ill formed where their opcode is absent, an LDA where OPCODE_SET has no LDA. -/
theorem test_wf_instr_absent :
    (Instr.diagzp 0x10#8).wellFormed Config.default = false ∧ Instr.diaga.wellFormed Config.default = false ∧
    (Instr.ldaImm 0x10#8).wellFormed { Config.default with opcodeSet := [0x61#8] } = false := by decide

/-- Each is well formed where its opcode is present. -/
theorem test_wf_instr_present :
    (Instr.diagzp 0x10#8).wellFormed diagCfg = true ∧ Instr.diaga.wellFormed diagCfg = true ∧
    (Instr.ldaImm 0x10#8).wellFormed Config.default = true := by decide

/-! ### 2. Decoding: every constructor, from the opcode map of 30_encoding.md R84 and the formats of R80 and R83 -/

/-- One word of each family written bit by bit: LDA #$10, STA $20, TAX, ADC $1234. -/
theorem test_decode_bits :
    decode Config.default [0b10101001#8, 0b00010000#8] = .instr (.ldaImm 0x10#8) [] ∧
    decode Config.default [0b10000101#8, 0b00100000#8] = .instr (.staZp 0x20#8) [] ∧
    decode Config.default [0b10101010#8] = .instr .tax [] ∧
    decode Config.default [0b01101101#8, 0b00110100#8, 0b00010010#8] = .instr (.adcAbs 0x1234#16) [] := by decide

/-- The eight forms of LDA. -/
theorem test_decode_lda :
    decode Config.default [0xA9, 0x5C] = .instr (.ldaImm 0x5C#8) [] ∧
    decode Config.default [0xA5, 0x5C] = .instr (.ldaZp 0x5C#8) [] ∧
    decode Config.default [0xB5, 0x5C] = .instr (.ldaZpx 0x5C#8) [] ∧
    decode Config.default [0xAD, 0x34, 0x12] = .instr (.ldaAbs 0x1234#16) [] ∧
    decode Config.default [0xBD, 0x34, 0x12] = .instr (.ldaAbsx 0x1234#16) [] ∧
    decode Config.default [0xB9, 0x34, 0x12] = .instr (.ldaAbsy 0x1234#16) [] ∧
    decode Config.default [0xA1, 0x5C] = .instr (.ldaIndx 0x5C#8) [] ∧
    decode Config.default [0xB1, 0x5C] = .instr (.ldaIndy 0x5C#8) [] := by decide

/-- The five forms of LDX. -/
theorem test_decode_ldx :
    decode Config.default [0xA2, 0x5C] = .instr (.ldxImm 0x5C#8) [] ∧
    decode Config.default [0xA6, 0x5C] = .instr (.ldxZp 0x5C#8) [] ∧
    decode Config.default [0xB6, 0x5C] = .instr (.ldxZpy 0x5C#8) [] ∧
    decode Config.default [0xAE, 0x34, 0x12] = .instr (.ldxAbs 0x1234#16) [] ∧
    decode Config.default [0xBE, 0x34, 0x12] = .instr (.ldxAbsy 0x1234#16) [] := by decide

/-- The five forms of LDY. -/
theorem test_decode_ldy :
    decode Config.default [0xA0, 0x5C] = .instr (.ldyImm 0x5C#8) [] ∧
    decode Config.default [0xA4, 0x5C] = .instr (.ldyZp 0x5C#8) [] ∧
    decode Config.default [0xB4, 0x5C] = .instr (.ldyZpx 0x5C#8) [] ∧
    decode Config.default [0xAC, 0x34, 0x12] = .instr (.ldyAbs 0x1234#16) [] ∧
    decode Config.default [0xBC, 0x34, 0x12] = .instr (.ldyAbsx 0x1234#16) [] := by decide

/-- The seven forms of STA. -/
theorem test_decode_sta :
    decode Config.default [0x85, 0x5C] = .instr (.staZp 0x5C#8) [] ∧
    decode Config.default [0x95, 0x5C] = .instr (.staZpx 0x5C#8) [] ∧
    decode Config.default [0x8D, 0x34, 0x12] = .instr (.staAbs 0x1234#16) [] ∧
    decode Config.default [0x9D, 0x34, 0x12] = .instr (.staAbsx 0x1234#16) [] ∧
    decode Config.default [0x99, 0x34, 0x12] = .instr (.staAbsy 0x1234#16) [] ∧
    decode Config.default [0x81, 0x5C] = .instr (.staIndx 0x5C#8) [] ∧
    decode Config.default [0x91, 0x5C] = .instr (.staIndy 0x5C#8) [] := by decide

/-- The three forms of STX and of STY. -/
theorem test_decode_stx_sty :
    decode Config.default [0x86, 0x5C] = .instr (.stxZp 0x5C#8) [] ∧
    decode Config.default [0x96, 0x5C] = .instr (.stxZpy 0x5C#8) [] ∧
    decode Config.default [0x8E, 0x34, 0x12] = .instr (.stxAbs 0x1234#16) [] ∧
    decode Config.default [0x84, 0x5C] = .instr (.styZp 0x5C#8) [] ∧
    decode Config.default [0x94, 0x5C] = .instr (.styZpx 0x5C#8) [] ∧
    decode Config.default [0x8C, 0x34, 0x12] = .instr (.styAbs 0x1234#16) [] := by decide

/-- The six transfers. -/
theorem test_decode_transfers :
    decode Config.default [0xAA] = .instr .tax [] ∧
    decode Config.default [0xA8] = .instr .tay [] ∧
    decode Config.default [0xBA] = .instr .tsx [] ∧
    decode Config.default [0x8A] = .instr .txa [] ∧
    decode Config.default [0x9A] = .instr .txs [] ∧
    decode Config.default [0x98] = .instr .tya [] := by decide

/-- The eight forms of ADC. -/
theorem test_decode_adc :
    decode Config.default [0x69, 0x5C] = .instr (.adcImm 0x5C#8) [] ∧
    decode Config.default [0x65, 0x5C] = .instr (.adcZp 0x5C#8) [] ∧
    decode Config.default [0x75, 0x5C] = .instr (.adcZpx 0x5C#8) [] ∧
    decode Config.default [0x6D, 0x34, 0x12] = .instr (.adcAbs 0x1234#16) [] ∧
    decode Config.default [0x7D, 0x34, 0x12] = .instr (.adcAbsx 0x1234#16) [] ∧
    decode Config.default [0x79, 0x34, 0x12] = .instr (.adcAbsy 0x1234#16) [] ∧
    decode Config.default [0x61, 0x5C] = .instr (.adcIndx 0x5C#8) [] ∧
    decode Config.default [0x71, 0x5C] = .instr (.adcIndy 0x5C#8) [] := by decide

/-- 46_diagnostic.md R220, R221: the two diagnostic opcodes, where configured (DG-1, DG-4). -/
theorem test_decode_diagnostics :
    decode diagCfg [0xFF, 0x10] = .instr (.diagzp 0x10#8) [] ∧
    decode diagCfg [0xFE] = .instr .diaga [] := by decide

/-- 30_encoding.md R86: 0x02, 0x00 (BRK), 0x4C (JMP), 0xEA (NOP) and, by default, 0xFF are unrecognised; DG-6 for 0xFE. -/
theorem test_decode_unrecognised :
    decode Config.default [0x02] = .unrecognised 0x02 ∧
    decode Config.default [0x00] = .unrecognised 0x00 ∧
    decode Config.default [0x4C] = .unrecognised 0x4C ∧
    decode Config.default [0xEA] = .unrecognised 0xEA ∧
    decode Config.default [0xFF] = .unrecognised 0xFF ∧
    decode Config.default [0xFE] = .unrecognised 0xFE := by decide

/-- 40_dispatch.md R107 (FT-1, FT-2): a recognised opcode without all its operand bytes. -/
theorem test_decode_truncated :
    decode Config.default [0xA9] = .truncated 0xA9 ∧ decode Config.default [0xAD, 0x00] = .truncated 0xAD ∧
    decode Config.default [] = .endOfCode := by decide

/-- R83: an absolute operand is encoded low byte first. -/
theorem test_encode_little_endian :
    encode Config.default (.ldaAbs 0x1234#16) = some [0xAD, 0x34, 0x12] ∧ encode Config.default .diaga = none ∧
    encode diagCfg .diaga = some [0xFE] := by decide

/-- The numbering of spec/opcode_table.json: the first byte is bits 7 to 0. Operand bits it does not give are 0. -/
theorem test_decodeTableWord :
    decodeTableWord 24 0x1234AD = some (.ldaAbs 0x1234#16) ∧ decodeTableWord 8 0xAD = some (.ldaAbs 0x0000#16) ∧
    decodeTableWord 16 0x10A9 = some (.ldaImm 0x10#8) ∧ decodeTableWord 8 0xAA = some .tax ∧ decodeTableWord 8 0x02 = none := by decide

/-- The word placed is the instruction the next step runs (LD-2, TR-1). -/
theorem test_withFetchWord :
    leads (step (State.reset.withFetchWord 16 0x80A9)) (fun t => t.regA == 0x80 && t.regP == 0x80 && t.cursor == 2) = true ∧
    leads (step ({ State.reset with regA := 0x80 }.withFetchWord 8 0xAA)) (fun t => t.regX == 0x80 && t.regP == 0x80) = true := by decide

/-- 30_encoding.md R84: every byte of the table has a form, and they are 45. -/
theorem test_dispatch_matches_table :
    tableOpcodes.length = 45 ∧ tableOpcodes.all (fun op => (tableForm op).isSome) = true := by decide

/-! ### 3. One step of each instruction, from the vectors of spec/95_test_vectors.md section 2 -/

/-- LD-1: zero sets Z. -/
theorem test_step_ldaImm :
    runs (cpu Config.default 0x00 0x00 0x00 0x00 0x00 []) [0xA9, 0x00]
      (fun t => t.regA == 0x00 && t.regP == 0x02 && t.cursor == 2) = true := by decide

/-- LD-4: bits 2 to 5 are kept. -/
theorem test_step_ldaImm_keeps :
    runs (cpu Config.default 0x00 0x00 0x00 0x00 0x3C []) [0xA9, 0x00]
      (fun t => t.regA == 0x00 && t.regP == 0x3E && t.cursor == 2) = true := by decide

/-- LD-5. -/
theorem test_step_ldaZp :
    runs (cpu Config.default 0x00 0x00 0x00 0x00 0x00 [(0x0044, 0x5A#8)]) [0xA5, 0x44]
      (fun t => t.regA == 0x5A && t.regP == 0x00 && t.cursor == 2) = true := by decide

/-- LD-6: the zero page wraps. -/
theorem test_step_ldaZpx :
    runs (cpu Config.default 0x00 0x20 0x00 0x00 0x00 [(0x0010, 0x99#8)]) [0xB5, 0xF0]
      (fun t => t.regA == 0x99 && t.regP == 0x80 && t.cursor == 2) = true := by decide

/-- LD-8: little endian. -/
theorem test_step_ldaAbs :
    runs (cpu Config.default 0x00 0x00 0x00 0x00 0x00 [(0x1234, 0xC3#8)]) [0xAD, 0x34, 0x12]
      (fun t => t.regA == 0xC3 && t.regP == 0x80 && t.cursor == 3) = true := by decide

/-- LD-11: 2048 is the first address that does not exist. -/
theorem test_step_ldaAbs_small :
    runs (cpu smallCfg 0x00 0x00 0x00 0x00 0x00 []) [0xAD, 0x00, 0x08]
      (fun t => t.fault == some ⟨.addressOutOfRange 0x800 .read, 0, 0xAD⟩ &&
        t.phase == .faulted && t.regA == 0x00 && t.regP == 0x00 && t.cursor == 0) = true := by decide

/-- LD-9: no page wrap. -/
theorem test_step_ldaAbsx :
    runs (cpu Config.default 0x00 0x01 0x00 0x00 0x00 [(0x1300, 0x11#8)]) [0xBD, 0xFF, 0x12]
      (fun t => t.regA == 0x11 && t.regP == 0x00 && t.cursor == 3) = true := by decide

/-- LD-10: 0xFFFF + 1 is out of range. -/
theorem test_step_ldaAbsx_fault :
    runs (cpu Config.default 0x00 0x01 0x00 0x00 0x00 []) [0xBD, 0xFF, 0xFF]
      (fun t => t.fault == some ⟨.addressOutOfRange 0x10000 .read, 0, 0xBD⟩ &&
        t.phase == .faulted && t.regA == 0x00 && t.out == []) = true := by decide

/-- LD-30: no 8-bit wrap. -/
theorem test_step_ldaAbsy :
    runs (cpu Config.default 0x00 0x00 0x01 0x00 0x00 [(0x0000, 0x0D#8), (0x0100, 0x0C#8)]) [0xB9, 0xFF, 0x00]
      (fun t => t.regA == 0x0C && t.regP == 0x00 && t.cursor == 3) = true := by decide

/-- LD-14: one-byte pointer, its location wraps. -/
theorem test_step_ldaIndx :
    runs (cpu Config.default 0x00 0x03 0x00 0x00 0x00 [(0x0001, 0x50#8), (0x0002, 0x12#8), (0x0050, 0x77#8), (0x1250, 0x88#8)]) [0xA1, 0xFE]
      (fun t => t.regA == 0x77 && t.regP == 0x00 && t.cursor == 2) = true := by decide

/-- LD-16: a two-byte pointer whose high byte is at 0x00. -/
theorem test_step_ldaIndx_two :
    runs (cpu ptr2Cfg 0x00 0x00 0x00 0x00 0x00 [(0x0000, 0x12#8), (0x00FF, 0x34#8), (0x1234, 0x66#8)]) [0xA1, 0xFF]
      (fun t => t.regA == 0x66 && t.regP == 0x00 && t.cursor == 2) = true := by decide

/-- LD-17: one-byte pointer, the sum does not wrap. -/
theorem test_step_ldaIndy :
    runs (cpu Config.default 0x00 0x00 0x20 0x00 0x00 [(0x0030, 0xF0#8), (0x0031, 0x12#8), (0x0110, 0x5E#8)]) [0xB1, 0x30]
      (fun t => t.regA == 0x5E && t.regP == 0x00 && t.cursor == 2) = true := by decide

/-- LD-18: two-byte pointer. -/
theorem test_step_ldaIndy_two :
    runs (cpu ptr2Cfg 0x00 0x00 0x20 0x00 0x00 [(0x0030, 0xF0#8), (0x0031, 0x12#8), (0x1310, 0x6E#8)]) [0xB1, 0x30]
      (fun t => t.regA == 0x6E && t.regP == 0x00 && t.cursor == 2) = true := by decide

/-- LD-20. -/
theorem test_step_ldxImm :
    runs (cpu Config.default 0x00 0x00 0x00 0x00 0x00 []) [0xA2, 0xFF]
      (fun t => t.regX == 0xFF && t.regP == 0x80 && t.cursor == 2) = true := by decide

/-- LD-21: Z set, N cleared. -/
theorem test_step_ldxZp :
    runs (cpu Config.default 0x00 0x00 0x00 0x00 0x80 []) [0xA6, 0x05]
      (fun t => t.regX == 0x00 && t.regP == 0x02 && t.cursor == 2) = true := by decide

/-- LD-31: the zero page wraps. -/
theorem test_step_ldxZpy :
    runs (cpu Config.default 0x00 0x00 0x01 0x00 0x00 [(0x0000, 0x0D#8), (0x0100, 0x0C#8)]) [0xB6, 0xFF]
      (fun t => t.regX == 0x0D && t.regP == 0x00 && t.cursor == 2) = true := by decide

/-- LD-23. -/
theorem test_step_ldxAbs :
    runs (cpu Config.default 0x00 0x00 0x00 0x00 0x00 [(0x0200, 0x90#8)]) [0xAE, 0x00, 0x02]
      (fun t => t.regX == 0x90 && t.regP == 0x80 && t.cursor == 3) = true := by decide

/-- LD-24. -/
theorem test_step_ldxAbsy :
    runs (cpu Config.default 0x00 0x00 0xFF 0x00 0x00 [(0x01FF, 0x01#8)]) [0xBE, 0x00, 0x01]
      (fun t => t.regX == 0x01 && t.regP == 0x00 && t.cursor == 3) = true := by decide

/-- LD-25. -/
theorem test_step_ldyImm :
    runs (cpu Config.default 0x00 0x00 0x00 0x00 0x00 []) [0xA0, 0x01]
      (fun t => t.regY == 0x01 && t.regP == 0x00 && t.cursor == 2) = true := by decide

/-- LD-26. -/
theorem test_step_ldyZp :
    runs (cpu Config.default 0x00 0x00 0x00 0x00 0x00 [(0x00FF, 0xFF#8)]) [0xA4, 0xFF]
      (fun t => t.regY == 0xFF && t.regP == 0x80 && t.cursor == 2) = true := by decide

/-- LD-27: the zero page wraps. -/
theorem test_step_ldyZpx :
    runs (cpu Config.default 0x00 0x10 0x00 0x00 0x00 [(0x000F, 0x80#8)]) [0xB4, 0xFF]
      (fun t => t.regY == 0x80 && t.regP == 0x80 && t.cursor == 2) = true := by decide

/-- LD-28: the highest address. -/
theorem test_step_ldyAbs :
    runs (cpu Config.default 0x00 0x00 0x00 0x00 0x80 []) [0xAC, 0xFF, 0xFF]
      (fun t => t.regY == 0x00 && t.regP == 0x02 && t.cursor == 3) = true := by decide

/-- LD-29. -/
theorem test_step_ldyAbsx :
    runs (cpu Config.default 0x00 0x80 0x00 0x00 0x00 [(0x0180, 0x7F#8)]) [0xBC, 0x00, 0x01]
      (fun t => t.regY == 0x7F && t.regP == 0x00 && t.cursor == 3) = true := by decide

/-- ST-1: storing 0 does not set Z. -/
theorem test_step_staZp :
    runs (cpu Config.default 0x00 0x00 0x00 0x00 0x00 [(0x0010, 0xFF#8)]) [0x85, 0x10]
      (fun t => t.mem.read 0x0010 == 0x00 && t.regP == 0x00 && t.cursor == 2) = true := by decide

/-- ST-2: storing 0x80 does not set N. -/
theorem test_step_staZp_negative :
    runs (cpu Config.default 0x80 0x00 0x00 0x00 0x00 []) [0x85, 0x10]
      (fun t => t.mem.read 0x0010 == 0x80 && t.regP == 0x00 && t.cursor == 2) = true := by decide

/-- ST-3: the zero page wraps (90_conflicts.md C9). -/
theorem test_step_staZpx :
    runs (cpu Config.default 0x5A 0xF5 0x00 0x00 0x00 []) [0x95, 0x20]
      (fun t => t.mem.read 0x0015 == 0x5A && t.regP == 0x00 && t.cursor == 2) = true := by decide

/-- ST-4. -/
theorem test_step_staAbs :
    runs (cpu Config.default 0x01 0x00 0x00 0x00 0x00 []) [0x8D, 0x00, 0x80]
      (fun t => t.mem.read 0x8000 == 0x01 && t.regP == 0x00 && t.cursor == 3) = true := by decide

/-- ST-5: leaves the zero page. -/
theorem test_step_staAbsx :
    runs (cpu Config.default 0x02 0x01 0x00 0x00 0x00 []) [0x9D, 0xFF, 0x00]
      (fun t => t.mem.read 0x0100 == 0x02 && t.regP == 0x00 && t.cursor == 3) = true := by decide

/-- ST-6: no partial write. -/
theorem test_step_staAbsx_fault :
    runs (cpu Config.default 0x02 0x01 0x00 0x00 0x00 []) [0x9D, 0xFF, 0xFF]
      (fun t => t.fault == some ⟨.addressOutOfRange 0x10000 .write, 0, 0x9D⟩ &&
        t.phase == .faulted && t.mem == [] && t.out == []) = true := by decide

/-- ST-7. -/
theorem test_step_staAbsy :
    runs (cpu Config.default 0x03 0x00 0x02 0x00 0x00 []) [0x99, 0xFE, 0x10]
      (fun t => t.mem.read 0x1100 == 0x03 && t.regP == 0x00 && t.cursor == 3) = true := by decide

/-- ST-8. -/
theorem test_step_staIndx :
    runs (cpu Config.default 0x04 0x01 0x00 0x00 0x00 [(0x0011, 0x60#8)]) [0x81, 0x10]
      (fun t => t.mem.read 0x0060 == 0x04 && t.regP == 0x00 && t.cursor == 2) = true := by decide

/-- ST-9: 0xFF + 0xFF does not wrap. -/
theorem test_step_staIndy :
    runs (cpu Config.default 0x05 0x00 0xFF 0x00 0x00 [(0x0040, 0xFF#8)]) [0x91, 0x40]
      (fun t => t.mem.read 0x01FE == 0x05 && t.regP == 0x00 && t.cursor == 2) = true := by decide

/-- ST-10. -/
theorem test_step_stxZp :
    runs (cpu Config.default 0x00 0x77 0x00 0x00 0x00 []) [0x86, 0x00]
      (fun t => t.mem.read 0x0000 == 0x77 && t.regP == 0x00 && t.cursor == 2) = true := by decide

/-- ST-11: the zero page wraps. -/
theorem test_step_stxZpy :
    runs (cpu Config.default 0x00 0x78 0x01 0x00 0x00 []) [0x96, 0xFF]
      (fun t => t.mem.read 0x0000 == 0x78 && t.regP == 0x00 && t.cursor == 2) = true := by decide

/-- ST-12: out of range of MEM_SIZE = 2048. -/
theorem test_step_stxAbs :
    runs (cpu smallCfg 0x00 0x79 0x00 0x00 0x00 []) [0x8E, 0x00, 0x10]
      (fun t => t.fault == some ⟨.addressOutOfRange 0x1000 .write, 0, 0x8E⟩ &&
        t.phase == .faulted && t.mem == []) = true := by decide

/-- 43_store.md R180 with the address of ST-4. -/
theorem test_step_stxAbs_stores :
    runs (cpu Config.default 0x00 0x79 0x00 0x00 0x00 []) [0x8E, 0x00, 0x80]
      (fun t => t.mem.read 0x8000 == 0x79 && t.regP == 0x00 && t.cursor == 3) = true := by decide

/-- ST-13. -/
theorem test_step_styZp :
    runs (cpu Config.default 0x00 0x00 0x7A 0x00 0x00 []) [0x84, 0x33]
      (fun t => t.mem.read 0x0033 == 0x7A && t.regP == 0x00 && t.cursor == 2) = true := by decide

/-- ST-14: the zero page wraps. -/
theorem test_step_styZpx :
    runs (cpu Config.default 0x00 0x01 0x7B 0x00 0x00 []) [0x94, 0xFF]
      (fun t => t.mem.read 0x0000 == 0x7B && t.regP == 0x00 && t.cursor == 2) = true := by decide

/-- ST-15. -/
theorem test_step_styAbs :
    runs (cpu Config.default 0x00 0x00 0x7C 0x00 0x00 []) [0x8C, 0x34, 0x12]
      (fun t => t.mem.read 0x1234 == 0x7C && t.regP == 0x00 && t.cursor == 3) = true := by decide

/-- TR-1, the example of the source. -/
theorem test_step_tax :
    runs (cpu Config.default 0x80 0x00 0x00 0x00 0x00 []) [0xAA]
      (fun t => t.regX == 0x80 && t.regP == 0x80 && t.cursor == 1) = true := by decide

/-- TR-3: C and V are kept. -/
theorem test_step_tay :
    runs (cpu Config.default 0x7F 0x00 0x00 0x00 0x41 []) [0xA8]
      (fun t => t.regY == 0x7F && t.regP == 0x41 && t.cursor == 1) = true := by decide

/-- TR-4. -/
theorem test_step_tsx :
    runs (cpu Config.default 0x00 0x01 0x00 0x00 0x00 []) [0xBA]
      (fun t => t.regX == 0x00 && t.regP == 0x02 && t.cursor == 1) = true := by decide

/-- TR-5. -/
theorem test_step_txa :
    runs (cpu Config.default 0x00 0xC0 0x00 0x00 0x00 []) [0x8A]
      (fun t => t.regA == 0xC0 && t.regP == 0x80 && t.cursor == 1) = true := by decide

/-- TR-6: TXS sets Z (90_conflicts.md C5). -/
theorem test_step_txs :
    runs (cpu Config.default 0x00 0x00 0x00 0x22 0x00 []) [0x9A]
      (fun t => t.regS == 0x00 && t.regP == 0x02 && t.cursor == 1) = true := by decide

/-- TR-7: TXS sets N. -/
theorem test_step_txs_negative :
    runs (cpu Config.default 0x00 0xFF 0x00 0x00 0x00 []) [0x9A]
      (fun t => t.regS == 0xFF && t.regP == 0x80 && t.cursor == 1) = true := by decide

/-- TR-8: Z is cleared. -/
theorem test_step_tya :
    runs (cpu Config.default 0x00 0x00 0x01 0x00 0x02 []) [0x98]
      (fun t => t.regA == 0x01 && t.regP == 0x00 && t.cursor == 1) = true := by decide

/-- AD-2: Z is of the old A (90_conflicts.md C1). -/
theorem test_step_adcImm :
    runs (cpu Config.default 0x00 0x00 0x00 0x00 0x00 []) [0x69, 0x05]
      (fun t => t.regA == 0x05 && t.regP == 0x02 && t.cursor == 2) = true := by decide

/-- AD-5: V is set although the operands differ in sign (90_conflicts.md C2). -/
theorem test_step_adcImm_overflow :
    runs (cpu Config.default 0xFF 0x00 0x00 0x00 0x00 []) [0x69, 0x01]
      (fun t => t.regA == 0x00 && t.regP == 0x41 && t.cursor == 2) = true := by decide

/-- AD-22. -/
theorem test_step_adcZp :
    runs (cpu Config.default 0x10 0x00 0x00 0x00 0x00 [(0x0020, 0x01#8)]) [0x65, 0x20]
      (fun t => t.regA == 0x11 && t.regP == 0x00 && t.cursor == 2) = true := by decide

/-- AD-23: the zero page wraps. -/
theorem test_step_adcZpx :
    runs (cpu Config.default 0x10 0x01 0x00 0x00 0x00 [(0x0000, 0x02#8)]) [0x75, 0xFF]
      (fun t => t.regA == 0x12 && t.regP == 0x00 && t.cursor == 2) = true := by decide

/-- AD-24. -/
theorem test_step_adcAbs :
    runs (cpu Config.default 0x10 0x00 0x00 0x00 0x00 [(0x0300, 0x03#8)]) [0x6D, 0x00, 0x03]
      (fun t => t.regA == 0x13 && t.regP == 0x00 && t.cursor == 3) = true := by decide

/-- AD-25. -/
theorem test_step_adcAbsx :
    runs (cpu Config.default 0x10 0x02 0x00 0x00 0x00 [(0x0302, 0x04#8)]) [0x7D, 0x00, 0x03]
      (fun t => t.regA == 0x14 && t.regP == 0x00 && t.cursor == 3) = true := by decide

/-- AD-26: A and the flags are unchanged. -/
theorem test_step_adcAbsy :
    runs (cpu Config.default 0x10 0x00 0x01 0x00 0x00 []) [0x79, 0xFF, 0xFF]
      (fun t => t.fault == some ⟨.addressOutOfRange 0x10000 .read, 0, 0x79⟩ &&
        t.phase == .faulted && t.regA == 0x10 && t.regP == 0x00) = true := by decide

/-- 45_adc.md R207 with the cells of AD-25. -/
theorem test_step_adcAbsy_adds :
    runs (cpu Config.default 0x10 0x00 0x02 0x00 0x00 [(0x0302, 0x04#8)]) [0x79, 0x00, 0x03]
      (fun t => t.regA == 0x14 && t.regP == 0x00 && t.cursor == 3) = true := by decide

/-- AD-27. -/
theorem test_step_adcIndx :
    runs (cpu Config.default 0x10 0x02 0x00 0x00 0x00 [(0x0012, 0x90#8), (0x0090, 0x05#8)]) [0x61, 0x10]
      (fun t => t.regA == 0x15 && t.regP == 0x00 && t.cursor == 2) = true := by decide

/-- AD-28. -/
theorem test_step_adcIndy :
    runs (cpu Config.default 0x10 0x00 0x10 0x00 0x00 [(0x0012, 0x90#8), (0x00A0, 0x06#8)]) [0x71, 0x12]
      (fun t => t.regA == 0x16 && t.regP == 0x00 && t.cursor == 2) = true := by decide

/-- DG-1. -/
theorem test_step_diagzp :
    runs (cpu diagCfg 0x00 0x00 0x00 0x00 0x00 [(0x0010, 0x10#8)]) [0xFF, 0x10]
      (fun t => t.out == [0x10] && t.regA == 0x00 && t.regP == 0x00 && t.cursor == 2) = true := by decide

/-- DG-4. -/
theorem test_step_diaga :
    runs (cpu diagCfg 0x33 0x00 0x00 0x00 0x00 []) [0xFE]
      (fun t => t.out == [0x33] && t.regA == 0x33 && t.regP == 0x00 && t.cursor == 1) = true := by decide

/-! ### 4. The Run: skipped bytes, its end, faults, and the host -/

/-- UN-1: the byte 0x02 leaves everything but the cursor. -/
theorem test_step_unrecognised :
    runs (cpu Config.default 0x11 0x22 0x33 0x44 0xC3 []) [0x02]
      (fun t => t == { running (cpu Config.default 0x11 0x22 0x33 0x44 0xC3 []) [0x02] with cursor := 1 }) = true := by decide

/-- DG-7: the end of an empty Run dumps A. -/
theorem test_step_end_of_code :
    runs (cpu Config.default 0x21 0x00 0x00 0x00 0x00 []) []
      (fun t => t.out == [0x21] && t.phase == .done) = true := by decide

/-- FT-2: one of two operand bytes is present. -/
theorem test_step_truncated :
    runs (cpu Config.default 0x00 0x00 0x00 0x00 0x00 []) [0xAD, 0x00]
      (fun t => t.fault == some ⟨.truncatedInstruction, 0, 0xAD⟩ && t.phase == .faulted && t.out == []) = true := by decide

/-- 40_dispatch.md R102: a Run call starts the Run at cursor 0; registers stay. -/
theorem test_run_start :
    leads (step (State.callRun (cpu Config.default 0x21 0x00 0x00 0x00 0x41 []) [0xAA]))
      (fun t => t.phase == .running && t.code == [0xAA] && t.cursor == 0 && t.regA == 0x21 && t.regP == 0x41) = true := by decide

/-- 60_exceptions.md R242 (P9): a Run on a faulted Cpu is refused. -/
theorem test_run_after_fault :
    let s := { State.reset with phase := .faulted, fault := some ⟨.truncatedInstruction, 0, 0xA9⟩ };
    hostRun s [0xA9, 0x01] = .error .runAfterFault ∧ step (s.callRun [0xA9, 0x01]) = .refused .runAfterFault := ⟨rfl, rfl⟩

/-- 30_encoding.md R85: a diagnostic opcode inside OPCODE_SET. -/
theorem test_bad_configuration :
    step { State.reset with cfg := { Config.default with diagAOpcode := some 0xA9#8 } } = .refused .badConfiguration := rfl

/-- 20_memory.md R51, R68. -/
theorem test_host_access :
    hostRead State.reset 0xFFFF = .ok 0x00 ∧ hostRead State.reset 0x10000 = .error .hostAddress ∧
    hostRead (running State.reset []) 0 = .error .hostDuringRun ∧
    (match hostWrite State.reset 0x10 0x5A with | .ok t => decide (t.mem = [(0x10, 0x5A#8)]) | .error _ => false) = true := by decide

/-- 20_memory.md R68: from the call of a Run to its return the host neither acts on Memory nor calls another Run. -/
theorem test_host_calls :
    let s := State.reset.callRun [0xAA];
    hostRun State.reset [0xAA] = .ok s ∧ hostRead s 0 = .error .hostDuringRun ∧ hostWrite s 0 0x01 = .error .hostDuringRun ∧
    hostRun s [0xA8] = .error .hostDuringRun ∧ hostRun (running State.reset [0xAA]) [0xA8] = .error .hostDuringRun := ⟨rfl, rfl, rfl, rfl, rfl⟩

/-- 20_memory.md R67: one Memory for two Cpus is refused. -/
theorem test_launch_shared :
    (match launch Config.default [(0, []), (0, [])] with | .ok _ => none | .error r => some r) = some .sharedMemory ∧
    (match launch Config.default [(0, []), (1, [])] with | .ok l => l.length | .error _ => 0) = 2 := by decide

/-- 40_dispatch.md R110 (c), 30_encoding.md R85: a launch in a configuration that is not admitted. -/
theorem test_launch_refused :
    launch { Config.default with diagAOpcode := some 0xA9#8 } [(0, [])] = .error .badConfiguration := rfl

/-- 60_exceptions.md R240: the cause codes. -/
theorem test_fault_codes :
    FaultKind.truncatedInstruction.code = 1 ∧ (FaultKind.addressOutOfRange 0x800 .read).code = 2 := by decide

/-- The canonical form: writing 0x00 removes the entry, writes in any order make one list (log 4). -/
theorem test_memory_canonical :
    Memory.write (Memory.write [] 7 0x01#8) 7 0x00#8 = [] ∧
    Memory.write (Memory.write [] 9 0x02#8) 7 0x01#8 = Memory.write (Memory.write [] 7 0x01#8) 9 0x02#8 ∧
    Memory.wf [(9, 0x02#8), (7, 0x01#8)] = false ∧ Memory.wf [(7, 0x00#8)] = false := by decide

/-! ### 5. A witness for the hypotheses of each statement

`edge` reaches the last cell of Memory in every indexed and indirect mode, `outside` the first address past it. -/

/-- X = Y = 1 and a two-byte pointer at 0x10 to 0xFFFE, the operand of (zp,X) being 0x0F. -/
def edge : State := cpu ptr2Cfg 0x80 0x01 0x01 0x00 0x00 [(0x0010, 0xFE#8), (0x0011, 0xFF#8)]

/-- MEM_SIZE = 2048, X = Y = 1, a two-byte pointer at 0x10 to 0x0800 and one at 0x20 to 0x07FF, and a byte at the cursor. -/
def outside : State :=
  running (cpu smallCfg 0x80 0x01 0x01 0x00 0x00 [(0x0011, 0x08#8), (0x0020, 0xFF#8), (0x0021, 0x07#8)]) [0xAD]

theorem test_hyp_EncodedInstructionsDecodeBack :
    Config.default.wellFormed = true ∧ (Instr.ldaAbsx 0xFFFF#16).wellFormed Config.default = true ∧
    diagCfg.wellFormed = true ∧ (Instr.diagzp 0xFF#8).wellFormed diagCfg = true := by decide

theorem test_hyp_DecodedBytesEncodeBack :
    decode diagCfg [0xFF, 0x10, 0xA9] = .instr (.diagzp 0x10#8) [0xA9] := by decide

theorem test_hyp_LengthIsFixedByTheOpcode :
    (recognise Config.default 0x02#8).isNone = true ∧
    (∃ f, recognise Config.default 0xAD#8 = some f ∧ f.operandBytes ≤ [0x34#8, 0x12#8].length) ∧
    (running State.reset [0x02]).phase = .running ∧ (running State.reset [0x02]).code.drop 0 = 0x02 :: [] ∧
    leads (step (running State.reset [0x02])) (fun _ => true) = true ∧
    leads (step (running State.reset [0xAD, 0x34, 0x12])) (fun t => t.phase == .running) = true := ⟨by decide, ⟨_, rfl, by decide⟩, rfl, rfl, by decide, by decide⟩

theorem test_hyp_ConfigurationDrivesTheDecoder :
    (0xFF#8 ∉ diagCfg.opcodeSet ∧ diagCfg.diagZpOpcode = some 0xFF#8) ∧
    (0xFE#8 ∉ diagCfg.opcodeSet ∧ diagCfg.diagZpOpcode ≠ some 0xFE#8 ∧ diagCfg.diagAOpcode = some 0xFE#8) ∧
    (0x02#8 ∉ diagCfg.opcodeSet ∧ diagCfg.diagZpOpcode ≠ some 0x02#8 ∧ diagCfg.diagAOpcode ≠ some 0x02#8) ∧
    (0xA9#8 ∈ diagCfg.opcodeSet ∧ 0xA9#8 ∈ tableOpcodes) := by decide

theorem test_hyp_ConfigurationDrivesTheDecoder_refused :
    (let c := { Config.default with diagZpOpcode := some 0xA9#8 }; 0xA9#8 ∈ c.opcodeSet ∧ c.diagZpOpcode = some 0xA9#8) ∧
    (let c := { Config.default with opcodeSet := [0x02#8] }; 0x02#8 ∈ c.opcodeSet ∧ 0x02#8 ∉ tableOpcodes) ∧
    (let c := { Config.default with diagZpOpcode := some 0xFF#8, diagAOpcode := some 0xFF#8 };
      c.diagZpOpcode = some 0xFF#8 ∧ c.diagAOpcode = some 0xFF#8) ∧
    { Config.default with memSize := 255 }.memSize < 256 ∧ 65536 < { Config.default with memSize := 65537 }.memSize := by decide

theorem test_hyp_AddObeysTheArithmeticLaws :
    (0xFE#8 : Byte) ≠ 0xFF#8 ∧ State.reset.flag .c = false ∧
    (let s := { State.reset with regA := 0x7F#8 };
      s.regA.getLsbD 7 = (0x01#8).getLsbD 7 ∧ (s.add 0x01#8).regA.getLsbD 7 ≠ (0x01#8).getLsbD 7) := by decide

theorem test_hyp_AddIgnoresTheUnusedBits :
    (0x3C#8).getLsbD 0 = State.reset.regP.getLsbD 0 := by decide

theorem test_hyp_LdaResults :
    edge.cfg.wellFormed = true ∧ (0xFFFF#16).toNat < edge.cfg.memSize ∧
    (0xFFFE#16).toNat + edge.regX.toNat < edge.cfg.memSize ∧
    (0xFFFE#16).toNat + edge.regY.toNat < edge.cfg.memSize ∧
    pointerAt edge (0x0F#8 + edge.regX) < edge.cfg.memSize ∧
    pointerAt edge 0x10#8 + edge.regY.toNat < edge.cfg.memSize := by decide

theorem test_hyp_LdxResults :
    edge.cfg.wellFormed = true ∧ (0xFFFF#16).toNat < edge.cfg.memSize ∧
    (0xFFFE#16).toNat + edge.regY.toNat < edge.cfg.memSize := by decide

theorem test_hyp_LdyResults :
    edge.cfg.wellFormed = true ∧ (0xFFFF#16).toNat < edge.cfg.memSize ∧
    (0xFFFE#16).toNat + edge.regX.toNat < edge.cfg.memSize := by decide

theorem test_hyp_StaResults :
    edge.cfg.wellFormed = true ∧ edge.mem.wf = true ∧ (0xFFFF#16).toNat < edge.cfg.memSize ∧
    (0xFFFE#16).toNat + edge.regX.toNat < edge.cfg.memSize ∧
    (0xFFFE#16).toNat + edge.regY.toNat < edge.cfg.memSize ∧
    pointerAt edge (0x0F#8 + edge.regX) < edge.cfg.memSize ∧
    pointerAt edge 0x10#8 + edge.regY.toNat < edge.cfg.memSize := by decide

theorem test_hyp_StxResults :
    edge.cfg.wellFormed = true ∧ edge.mem.wf = true ∧ (0xFFFF#16).toNat < edge.cfg.memSize := by decide

theorem test_hyp_StyResults :
    edge.cfg.wellFormed = true ∧ edge.mem.wf = true ∧ (0xFFFF#16).toNat < edge.cfg.memSize := by decide

theorem test_hyp_AdcResults :
    edge.cfg.wellFormed = true ∧ (0xFFFF#16).toNat < edge.cfg.memSize ∧
    (0xFFFE#16).toNat + edge.regX.toNat < edge.cfg.memSize ∧
    (0xFFFE#16).toNat + edge.regY.toNat < edge.cfg.memSize ∧
    pointerAt edge (0x0F#8 + edge.regX) < edge.cfg.memSize ∧
    pointerAt edge 0x10#8 + edge.regY.toNat < edge.cfg.memSize := by decide

theorem test_hyp_edge_is_the_last_cell :
    (0xFFFE#16).toNat + edge.regX.toNat = 0xFFFF ∧ pointerAt edge (0x0F#8 + edge.regX) = 0xFFFE ∧
    pointerAt edge 0x10#8 + edge.regY.toNat = 0xFFFF := by decide

theorem test_hyp_DiagnosticResults :
    edge.cfg.wellFormed = true := by decide

theorem test_hyp_ConfiguredDiagnosticOpcodesRun :
    (let s := running (State.construct diagCfg []) [0xFF, 0xFF];
      s.cfg.wellFormed = true ∧ s.phase = .running ∧ s.cfg.diagZpOpcode = some 0xFF#8 ∧ s.code.drop s.cursor = 0xFF#8 :: 0xFF :: []) ∧
    (let s := running (State.construct diagCfg []) [0xFE];
      s.cfg.wellFormed = true ∧ s.phase = .running ∧ s.cfg.diagAOpcode = some 0xFE#8 ∧ s.code.drop s.cursor = 0xFE#8 :: []) := by decide

theorem test_hyp_OutOfRangeReadsFault :
    outside.cfg.wellFormed = true ∧ outside.code[outside.cursor]? = some 0xAD#8 ∧
    outside.cfg.memSize ≤ (0x0800#16).toNat ∧ outside.cfg.memSize ≤ (0x07FF#16).toNat + outside.regX.toNat ∧
    outside.cfg.memSize ≤ (0x07FF#16).toNat + outside.regY.toNat ∧
    outside.cfg.memSize ≤ pointerAt outside (0x0F#8 + outside.regX) ∧
    outside.cfg.memSize ≤ pointerAt outside 0x20#8 + outside.regY.toNat := by decide

theorem test_hyp_OutOfRangeWritesFault :
    outside.cfg.wellFormed = true ∧ outside.code[outside.cursor]? = some 0xAD#8 ∧
    outside.cfg.memSize ≤ (0x0800#16).toNat ∧ outside.cfg.memSize ≤ (0x07FF#16).toNat + outside.regX.toNat ∧
    outside.cfg.memSize ≤ (0x07FF#16).toNat + outside.regY.toNat ∧
    outside.cfg.memSize ≤ pointerAt outside (0x0F#8 + outside.regX) ∧
    outside.cfg.memSize ≤ pointerAt outside 0x20#8 + outside.regY.toNat := by decide

theorem test_hyp_outside_is_the_first_address :
    (0x07FF#16).toNat + outside.regX.toNat = 0x800 ∧ pointerAt outside (0x0F#8 + outside.regX) = 0x800 ∧
    pointerAt outside 0x20#8 + outside.regY.toNat = 0x800 := by decide

theorem test_hyp_TruncatedInstructionsFault :
    (running State.reset [0xAD, 0x00]).cfg.wellFormed = true ∧ (running State.reset [0xAD, 0x00]).phase = .running ∧
    (running State.reset [0xAD, 0x00]).code.drop 0 = 0xAD#8 :: [0x00] ∧
    ∃ f, recognise Config.default 0xAD#8 = some f ∧ [0x00#8].length < f.operandBytes := ⟨by decide, rfl, rfl, _, rfl, by decide⟩

theorem test_hyp_AddressFaultsOnlyWhereTheModeAllows :
    (edge.cfg.wellFormed = true ∧ mayLeaveMemory edge.cfg (.ldaAbs 0xFFFF#16) = false ∧
      leads (exec (.ldaAbs 0xFFFF#16) edge) (fun _ => true) = true) ∧
    (let c := { Config.default with memSize := 0x1FF };
      c.wellFormed = true ∧ mayLeaveMemory c (.ldaIndy 0xFF#8) = false ∧
      leads (exec (.ldaIndy 0xFF#8) (State.construct c [])) (fun _ => true) = true) := by decide

theorem test_hyp_FaultsArePrecise :
    outside.phase = .running ∧ leads (step outside) (fun t => t.phase == .faulted) = true ∧
    leads (step (running outside [0xAD, 0x00, 0x08])) (fun t => t.phase == .faulted) = true := by decide

theorem test_hyp_StepRunsTheDecodedInstruction :
    let s := running State.reset [0xAD, 0x34, 0x12, 0xAA];
    s.cfg.wellFormed = true ∧ s.phase = .running ∧ decode s.cfg (s.code.drop s.cursor) = .instr (.ldaAbs 0x1234#16) [0xAA] := by decide

theorem test_hyp_UnrecognisedBytesAreSkipped :
    let s := running State.reset [0x02, 0xAA];
    s.cfg.wellFormed = true ∧ s.phase = .running ∧ s.code.drop s.cursor = 0x02#8 :: [0xAA] ∧
    (recognise s.cfg 0x02#8).isNone = true := by decide

theorem test_hyp_RunEndsWithTheTrailingDump :
    let s := { running State.reset [0xAA] with cursor := 1 };
    s.cfg.wellFormed = true ∧ s.phase = .running ∧ s.code.length ≤ s.cursor := by decide

theorem test_hyp_EmptyRunOnlyDumps :
    let s := State.reset.callRun [];
    s.cfg.wellFormed = true ∧ s.phase ≠ .running ∧ s.fault = none ∧ s.runCall = some [] := by decide

theorem test_hyp_BetweenRunsTheCoreStartsWaitsOrStops :
    (let s := State.reset.callRun [0xAA]; s.cfg.wellFormed = true ∧ s.phase ≠ .running ∧ s.fault = none ∧ s.runCall = some [0xAA]) ∧
    (let s := { State.reset.callRun [0xAA] with phase := .faulted, fault := some ⟨.truncatedInstruction, 0, 0xA9⟩ };
      s.cfg.wellFormed = true ∧ s.phase ≠ .running ∧ s.fault = some ⟨.truncatedInstruction, 0, 0xA9⟩ ∧
      s.runCall = some [0xAA]) ∧
    (State.reset.phase ≠ .running ∧ State.reset.fault = none ∧ State.reset.runCall = none) ∧
    (let s := { State.reset with phase := .faulted, fault := some ⟨.truncatedInstruction, 0, 0xA9⟩ };
      s.phase ≠ .running ∧ s.fault = some ⟨.truncatedInstruction, 0, 0xA9⟩ ∧ s.runCall = none) := by decide

theorem test_hyp_CursorMovesForwardThroughARun :
    (let s := running State.reset [0xAD, 0x34, 0x12]; s.phase = .running ∧ leads (step s) (fun t => t.phase == .running) = true) ∧
    (running State.reset []).phase = .running ∧ leads (step (running State.reset [])) (fun t => t.phase == .done) = true := by decide

theorem test_hyp_EveryRunEnds :
    let s := running State.reset [0xAD, 0x34, 0x12]; s.cfg.wellFormed = true ∧ s.phase = .running := by decide

/-- The first of two Runs, `LDA #$80`, after its end. -/
def firstDone : State :=
  { State.reset with regA := 0x80, regP := 0x80, out := [0x80], phase := .done, code := [0xA9, 0x80], cursor := 2 }

theorem test_hyp_SuccessiveRunsConcatenate :
    State.reset.cfg.wellFormed = true ∧ hostRun State.reset [0xA9, 0x80] = .ok (State.reset.callRun [0xA9, 0x80]) ∧
    reaches 3 (State.reset.callRun [0xA9, 0x80]) firstDone ∧ firstDone.phase = .done ∧ firstDone.runCall = none ∧
    (hostRun firstDone [0xAA] = .ok (firstDone.callRun [0xAA]) ∧
      ∃ t, reaches 3 (firstDone.callRun [0xAA]) t ∧ t.phase = .done ∧ t.runCall = none) ∧
    hostRun firstDone [0xA9] = .ok (firstDone.callRun [0xA9]) ∧
      ∃ t, reaches 2 (firstDone.callRun [0xA9]) t ∧ t.phase = .faulted ∧ t.runCall = none :=
  ⟨by decide, rfl, reaches_after _ _ _ (by decide), rfl, rfl,
    ⟨rfl, { firstDone with regX := 0x80, out := [0x80, 0x80], code := [0xAA], cursor := 1 },
      reaches_after _ _ _ (by decide), rfl, rfl⟩,
    rfl, { firstDone with phase := .faulted, fault := some ⟨.truncatedInstruction, 0, 0xA9⟩, code := [0xA9], cursor := 0 },
      reaches_after _ _ _ (by decide), rfl, rfl⟩

theorem test_hyp_ResetIsGood :
    edge.cfg.wellFormed = true ∧ edge.mem.wf = true ∧ edge.mem.within edge.cfg.memSize = true := by decide

theorem edge_good : (running edge [0x91, 0x10]).Good :=
  ⟨by decide, by decide, by decide, rfl, by decide, (fun h => by cases h), ⟨(fun h => by cases h), (fun h => absurd rfl h)⟩,
    (fun _ => rfl), fun r h => by cases h⟩

theorem test_hyp_EveryStepKeepsGood :
    (running edge [0x91, 0x10]).Good ∧ leads (step (running edge [0x91, 0x10])) (fun t => t.mem.read 0xFFFF == 0x80) = true :=
  ⟨edge_good, by decide⟩

/-- A faulted Cpu that meets the invariant, with its record at the last byte of code. -/
theorem test_hyp_EveryStepKeepsGood_faulted :
    { State.reset with phase := .faulted, code := [0xA9], fault := some ⟨.truncatedInstruction, 0, 0xA9⟩ }.Good :=
  ⟨by decide, rfl, rfl, rfl, by decide, (fun h => by cases h), ⟨(fun _ h => by cases h), (fun _ => rfl)⟩, (fun _ => rfl),
    fun r h => by cases h; exact ⟨rfl, rfl⟩⟩

theorem test_hyp_NoStepWritesPcFieldOrUnusedFlagBits :
    leads (step (running edge [0x69, 0x80])) (fun t => t.pcField == 0x0000) = true ∧
    step { State.reset with phase := .faulted, fault := some ⟨.truncatedInstruction, 0, 0xA9⟩ } =
      .fault (.runFaulted ⟨.truncatedInstruction, 0, 0xA9⟩) ∧
    step { State.reset with cfg := { Config.default with memSize := 255 } } = .refused .badConfiguration := ⟨by decide, rfl, rfl⟩

theorem test_hyp_RegistersAreWrittenByTheirTable :
    leads (exec (.ldaImm 0x01#8) State.reset) (fun t => decide (t.regA ≠ State.reset.regA)) = true ∧
    leads (exec (.ldxImm 0x01#8) State.reset) (fun t => decide (t.regX ≠ State.reset.regX)) = true ∧
    leads (exec (.ldyImm 0x01#8) State.reset) (fun t => decide (t.regY ≠ State.reset.regY)) = true ∧
    leads (exec .txs edge) (fun t => decide (t.regS ≠ edge.regS)) = true := by decide

theorem test_hyp_OnlyTsxReadsS :
    Instr.txs ≠ .tsx ∧ leads (exec .txs edge) (fun _ => true) = true := by decide

theorem test_hyp_FlagsFollowTheirTable :
    ((running edge []).phase = .running ∧
      leads (exec (.ldaIndy 0x10#8) (running edge [])) (fun t => t.phase == .running) = true ∧
      familyOf (.ldaIndy 0x10#8) = .load .a ∧
      leads (exec .txs (running edge [])) (fun t => t.phase == .running) = true ∧ familyOf .txs = .transfer .x .s ∧
      leads (exec (.adcImm 0x80#8) (running edge [])) (fun t => t.phase == .running) = true ∧
      familyOf (.adcImm 0x80#8) = .adc ∧ (0x3C#8).getLsbD 0 = edge.regP.getLsbD 0 ∧
      leads (exec (.staIndy 0x10#8) (running edge [])) (fun t => t.phase == .running) = true ∧
      familyOf (.staIndy 0x10#8) = .store .a ∧
      leads (exec .diaga (running edge [])) (fun t => t.phase == .running) = true ∧ familyOf .diaga = .diagnostic) ∧
    (running State.reset [0x02]).fetch = .unrecognised 0x02 ∧
    leads (step (running State.reset [0x02])) (fun _ => true) = true := by decide

theorem test_hyp_StoresAloneWriteMemory :
    edge.mem.wf = true ∧ (∀ r, familyOf .tax ≠ .store r) ∧ leads (exec .tax edge) (fun _ => true) = true ∧
    leads (exec (.staIndy 0x10#8) edge) (fun _ => true) = true ∧
    edge.effectiveAddress (.indy 0x10#8) = .ok 0xFFFF :=
  ⟨by decide, (fun _ h => by cases h), by decide, by decide, by rfl⟩

theorem test_hyp_TraceGrowsByDiagnosticsAndDumpOnly :
    leads (step (running State.reset [])) (fun t => t.out == [0x00]) = true ∧
    leads (step (running (State.construct diagCfg []) [0xFE])) (fun t => t.out == [0x00]) = true ∧
    leads (step (running (State.construct diagCfg []) [0xFF, 0xFF])) (fun t => t.out == [0x00]) = true := by decide

theorem edge_sameInputs (code : List Byte) :
    SameInputs (running edge code)
      { running edge code with pcField := 0xBEEF, regP := 0x3C, out := [0x01], runCall := some [] } :=
  ⟨rfl, (fun q => by cases q <;> rfl),
    (fun k hk => by
      by_cases h : k < 8
      · exact (by decide : ∀ k < 8, k ∉ [2, 3, 4, 5] → (0x3C#8).getLsbD k = (0x00#8).getLsbD k) k h hk
      · rw [BitVec.getLsbD_of_ge _ _ (Nat.not_lt.1 h), BitVec.getLsbD_of_ge _ _ (Nat.not_lt.1 h)]),
    rfl, rfl, rfl, rfl⟩

theorem test_hyp_StepDependsOnItsInputsOnly :
    (running edge [0x69, 0x80]).phase = .running ∧ (running edge [0x69]).phase = .running ∧
    (SameInputs (running edge [0x69, 0x80])
        { running edge [0x69, 0x80] with pcField := 0xBEEF, regP := 0x3C, out := [0x01], runCall := some [] } ∧
      leads (step (running edge [0x69, 0x80])) (fun t => t.phase == .running) = true) ∧
    SameInputs (running edge [0x69])
        { running edge [0x69] with pcField := 0xBEEF, regP := 0x3C, out := [0x01], runCall := some [] } ∧
      leads (step (running edge [0x69])) (fun t => t.phase == .faulted) = true :=
  ⟨rfl, rfl, ⟨edge_sameInputs _, by decide⟩, edge_sameInputs _, by decide⟩

theorem test_hyp_DirectModesResolve :
    (∃ mk, recognise Config.default 0xA9#8 = some (.f2 mk)) ∧ (∃ mk, recognise Config.default 0xAD#8 = some (.f3 mk)) ∧
    ∃ mk, recognise diagCfg 0xFF#8 = some (.f2 mk) := ⟨⟨_, rfl⟩, ⟨_, rfl⟩, _, rfl⟩

theorem test_hyp_IndexedAndIndirectModesResolve :
    State.reset.cfg.wellFormed = true ∧ State.reset.cfg.pointerBytes = .one ∧
    edge.cfg.wellFormed = true ∧ edge.cfg.pointerBytes = .two := by decide

theorem test_hyp_MemoryReadsTheLastWrite :
    edge.mem.wf = true ∧ 0xFFFF < edge.cfg.memSize ∧ edge.cfg.memSize ≤ 0x10000 := by decide

theorem test_hyp_EqualReadsMakeEqualMemories :
    Memory.wf (Memory.write [] 5 0x01#8) = true ∧ Memory.wf (Memory.write (Memory.write [] 5 0x02#8) 5 0x01#8) = true ∧
    ∀ addr, (Memory.write [] 5 0x01#8).read addr = (Memory.write (Memory.write [] 5 0x02#8) 5 0x01#8).read addr :=
  ⟨by decide, by decide, fun _ => rfl⟩

theorem test_hyp_HostTouchesMemoryBetweenRunsOnly :
    (running State.reset []).phase = .running ∧ (State.reset.callRun []).runCall ≠ none ∧
    State.reset.phase ≠ .running ∧ State.reset.runCall = none ∧ 0xFFFF < State.reset.cfg.memSize := by decide

theorem test_hyp_SharedMemoryLaunchesAreRefused :
    Config.default.wellFormed = true ∧
    (0 < 1 ∧ [(7, edge.mem), (7, edge.mem)][0]? = some (7, edge.mem) ∧ [(7, edge.mem), (7, edge.mem)][1]? = some (7, edge.mem)) ∧
    ([(7, edge.mem), (8, [])].map Prod.fst).Nodup ∧
    ∀ c ∈ [(7, edge.mem), (8, ([] : Memory))], c.2.wf = true ∧ c.2.within Config.default.memSize = true := by decide

theorem test_hyp_SharedMemoryLaunchesAreRefused_badConfiguration :
    { Config.default with memSize := 255 }.wellFormed = false ∧ { Config.default with memSize := 65537 }.wellFormed = false := by decide

theorem test_hyp_HostRunIsOneCallBetweenRuns :
    (State.reset.phase ≠ .running ∧ State.reset.runCall = none ∧ State.reset.fault = none) ∧
    (let s := { State.reset with phase := .faulted, fault := some ⟨.truncatedInstruction, 0, 0xA9⟩ };
      s.phase ≠ .running ∧ s.runCall = none ∧ s.fault = some ⟨.truncatedInstruction, 0, 0xA9⟩) := by decide

theorem test_hyp_HostActsKeepGood :
    State.reset.Good ∧ hostWrite State.reset 0xFFFF 0x01 = .ok { State.reset with mem := [(0xFFFF, 0x01#8)] } ∧
    hostRun State.reset [0xAA] = .ok (State.reset.callRun [0xAA]) :=
  ⟨⟨by decide, rfl, rfl, rfl, by decide, (fun h => by cases h), ⟨(fun h => by cases h), (fun h => absurd rfl h)⟩,
    (fun _ => rfl), fun r h => by cases h⟩, rfl, rfl⟩

end Sys2Proof.Tests
end

section
/-! Each instruction as one use of a shared operation, and everything such a use can do (spec/42_load.md to spec/46_diagnostic.md). -/

namespace Sys2Proof.Machine

/-- The shared operations of the meanings, with their arguments. -/
inductive Meaning where
  | load (r : Reg) (o : Operand)
  | store (r : Reg) (m : AddrMode)
  | transfer (src dst : Reg)
  | adc (o : Operand)
  | emitCell (b : Byte)
  | emitA

/-- The operation of the model that a meaning names. -/
def Meaning.run : Meaning → State → Host.Outcome State Fault Refusal
  | .load r o => Machine.load r o
  | .store r m => Machine.store r m
  | .transfer src dst => Machine.transfer src dst
  | .adc o => Machine.adc o
  | .emitCell b => Machine.emitCell b
  | .emitA => execDiaga

/-- The family of the opcode table a meaning belongs to; `familyOf_eq` ties it to the model. -/
def Meaning.family : Meaning → Family
  | .load r _ => .load r
  | .store r _ => .store r
  | .transfer src dst => .transfer src dst
  | .adc _ => .adc
  | .emitCell _ => .diagnostic
  | .emitA => .diagnostic

/-- The operand bytes the cursor passes; `operands_length` ties them to the encoding. -/
def Meaning.operandBytes : Meaning → Nat
  | .load _ o => o.operandBytes
  | .store _ m => m.operandBytes
  | .transfer _ _ => 0
  | .adc o => o.operandBytes
  | .emitCell _ => 1
  | .emitA => 0

/-- The meaning of each instruction; `exec_eq_run` ties it to the model. -/
def meaningOf : Instr → Meaning
  | .ldaImm v => .load .a (.imm v)
  | .ldaZp b => .load .a (.mem (.zp b))
  | .ldaZpx b => .load .a (.mem (.zpx b))
  | .ldaAbs w => .load .a (.mem (.abs w))
  | .ldaAbsx w => .load .a (.mem (.absx w))
  | .ldaAbsy w => .load .a (.mem (.absy w))
  | .ldaIndx b => .load .a (.mem (.indx b))
  | .ldaIndy b => .load .a (.mem (.indy b))
  | .ldxImm v => .load .x (.imm v)
  | .ldxZp b => .load .x (.mem (.zp b))
  | .ldxZpy b => .load .x (.mem (.zpy b))
  | .ldxAbs w => .load .x (.mem (.abs w))
  | .ldxAbsy w => .load .x (.mem (.absy w))
  | .ldyImm v => .load .y (.imm v)
  | .ldyZp b => .load .y (.mem (.zp b))
  | .ldyZpx b => .load .y (.mem (.zpx b))
  | .ldyAbs w => .load .y (.mem (.abs w))
  | .ldyAbsx w => .load .y (.mem (.absx w))
  | .staZp b => .store .a (.zp b)
  | .staZpx b => .store .a (.zpx b)
  | .staAbs w => .store .a (.abs w)
  | .staAbsx w => .store .a (.absx w)
  | .staAbsy w => .store .a (.absy w)
  | .staIndx b => .store .a (.indx b)
  | .staIndy b => .store .a (.indy b)
  | .stxZp b => .store .x (.zp b)
  | .stxZpy b => .store .x (.zpy b)
  | .stxAbs w => .store .x (.abs w)
  | .styZp b => .store .y (.zp b)
  | .styZpx b => .store .y (.zpx b)
  | .styAbs w => .store .y (.abs w)
  | .tax => .transfer .a .x
  | .tay => .transfer .a .y
  | .tsx => .transfer .s .x
  | .txa => .transfer .x .a
  | .txs => .transfer .x .s
  | .tya => .transfer .y .a
  | .adcImm v => .adc (.imm v)
  | .adcZp b => .adc (.mem (.zp b))
  | .adcZpx b => .adc (.mem (.zpx b))
  | .adcAbs w => .adc (.mem (.abs w))
  | .adcAbsx w => .adc (.mem (.absx w))
  | .adcAbsy w => .adc (.mem (.absy w))
  | .adcIndx b => .adc (.mem (.indx b))
  | .adcIndy b => .adc (.mem (.indy b))
  | .diagzp b => .emitCell b
  | .diaga => .emitA

theorem exec_eq_run (i : Instr) (s : State) : exec i s = (meaningOf i).run s := by cases i <;> rfl

theorem familyOf_eq (i : Instr) : familyOf i = (meaningOf i).family := by cases i <;> rfl

theorem operands_length (i : Instr) : i.operands.length = (meaningOf i).operandBytes := by cases i <;> rfl

theorem eq_diaga_of_meaningOf (i : Instr) (h : meaningOf i = .emitA) : i = .diaga := by
  cases i <;> simp_all [meaningOf]

theorem eq_diagzp_of_meaningOf (i : Instr) (b : Byte) (h : meaningOf i = .emitCell b) : i = .diagzp b := by
  cases i <;> simp_all [meaningOf]

/-- The fourteen families that occur in the opcode table. -/
def families : List Family :=
  [.load .a, .load .x, .load .y, .store .a, .store .x, .store .y, .transfer .a .x, .transfer .a .y, .transfer .s .x,
    .transfer .x .a, .transfer .x .s, .transfer .y .a, .adc, .diagnostic]

theorem familyOf_mem_families (i : Instr) : familyOf i ∈ families := by
  cases i <;> simp [familyOf, families]

theorem eq_tsx_of_familyOf (i : Instr) (d : Reg) (h : familyOf i = .transfer .s d) : i = .tsx := by
  cases i <;> simp_all [familyOf]

/-- The register a family writes. -/
def Family.dest : Family → Option Reg
  | .load r => some r
  | .transfer _ dst => some dst
  | .adc => some .a
  | .store _ => none
  | .diagnostic => none

/-- The state a meaning leaves when it completes. -/
inductive Meaning.Completes (s : State) : Meaning → State → Prop
  | load (r : Reg) (o : Operand) (v : Byte) (read : s.operandValue o = .ok v) :
      Completes s (.load r o) (s.loaded r v o.operandBytes)
  | store (r : Reg) (m : AddrMode) (ea : Nat) (resolved : s.effectiveAddress m = .ok ea) (inRange : ea < s.cfg.memSize) :
      Completes s (.store r m) ({ s with mem := s.mem.write ea (s.reg r) }.advance m.operandBytes)
  | transfer (src dst : Reg) : Completes s (.transfer src dst) (s.loaded dst (s.reg src) 0)
  | adc (o : Operand) (v : Byte) (read : s.operandValue o = .ok v) :
      Completes s (.adc o) ((s.add v).advance o.operandBytes)
  | emitCell (b v : Byte) (read : s.operandValue (.mem (.zp b)) = .ok v) :
      Completes s (.emitCell b) ((s.emit v).advance 1)
  | emitA : Completes s .emitA ((s.emit s.regA).advance 0)

/-- 60_exceptions.md R243: an instruction completes, or takes an address fault in the state it began in. -/
theorem exec_cases (i : Instr) (s : State) : ∃ t, exec i s = .next t ∧
    ((meaningOf i).Completes s t ∨
      ∃ ea k, s.cfg.memSize ≤ ea ∧ t = s.takeFault (.addressOutOfRange ea k)) := by
  rw [exec_eq_run]
  cases meaningOf i with
  | load r o =>
    obtain ⟨v, hv, h⟩ | ⟨ea, hea, h⟩ := load_cases r o s
    · exact ⟨_, h, .inl (.load r o v hv)⟩
    · exact ⟨_, h, .inr ⟨ea, .read, hea, rfl⟩⟩
  | store r m =>
    obtain ⟨ea, hea, hlt, h⟩ | ⟨ea, k, hea, h⟩ := store_cases r m s
    · exact ⟨_, h, .inl (.store r m ea hea hlt)⟩
    · exact ⟨_, h, .inr ⟨ea, k, hea, rfl⟩⟩
  | transfer src dst => exact ⟨_, rfl, .inl (.transfer src dst)⟩
  | adc o =>
    obtain ⟨v, hv, h⟩ | ⟨ea, hea, h⟩ := adc_cases o s
    · exact ⟨_, h, .inl (.adc o v hv)⟩
    · exact ⟨_, h, .inr ⟨ea, .read, hea, rfl⟩⟩
  | emitCell b =>
    obtain ⟨v, hv, h⟩ | ⟨ea, hea, h⟩ := emitCell_cases b s
    · exact ⟨_, h, .inl (.emitCell b v hv)⟩
    · exact ⟨_, h, .inr ⟨ea, .read, hea, rfl⟩⟩
  | emitA => exact ⟨_, rfl, .inl .emitA⟩

/-- `exec_cases` at a next state that is given. -/
theorem exec_next_cases (i : Instr) (s t : State) (h : exec i s = .next t) :
    (meaningOf i).Completes s t ∨ ∃ ea k, s.cfg.memSize ≤ ea ∧ t = s.takeFault (.addressOutOfRange ea k) := by
  obtain ⟨u, hu, hcases⟩ := exec_cases i s
  cases hu.symm.trans h
  exact hcases

/-! ### The effects of a load and of an addition, field by field -/

@[simp] theorem loaded_reg (s : State) (r q : Reg) (v : Byte) (n : Nat) :
    (s.loaded r v n).reg q = if q = r then v else s.reg q := by simp [State.loaded]

@[simp] theorem loaded_regP (s : State) (r : Reg) (v : Byte) (n : Nat) : (s.loaded r v n).regP = setZN s.regP v := rfl

@[simp] theorem loaded_mem (s : State) (r : Reg) (v : Byte) (n : Nat) : (s.loaded r v n).mem = s.mem := by
  simp [State.loaded]

@[simp] theorem loaded_out (s : State) (r : Reg) (v : Byte) (n : Nat) : (s.loaded r v n).out = s.out := by
  simp [State.loaded]

@[simp] theorem loaded_cursor (s : State) (r : Reg) (v : Byte) (n : Nat) :
    (s.loaded r v n).cursor = s.cursor + n + 1 := by simp [State.loaded]

theorem loaded_sameRun (s : State) (r : Reg) (v : Byte) (n : Nat) : SameRun s (s.loaded r v n) := by
  constructor <;> simp [State.loaded]

@[simp] theorem add_reg (s : State) (q : Reg) (v : Byte) :
    (s.add v).reg q = if q = .a then adcResult s.regP s.regA v else s.reg q := by simp [State.add]

@[simp] theorem add_regA (s : State) (v : Byte) : (s.add v).regA = adcResult s.regP s.regA v := rfl

@[simp] theorem add_regP (s : State) (v : Byte) : (s.add v).regP = adcFlags s.regP s.regA v := rfl

@[simp] theorem add_mem (s : State) (v : Byte) : (s.add v).mem = s.mem := rfl

@[simp] theorem add_out (s : State) (v : Byte) : (s.add v).out = s.out := rfl

@[simp] theorem add_cursor (s : State) (v : Byte) : (s.add v).cursor = s.cursor := rfl

/-- 20_memory.md R56: a read that answers a byte answers the byte of its cell. -/
theorem memRead_eq_ok (s : State) (a : Nat) (v : Byte) (h : s.memRead a = .ok v) : v = s.mem.read a := by
  unfold State.memRead at h
  split at h
  · cases h
  · exact (Except.ok.inj h).symm

/-! ### What a completed instruction changes and leaves unchanged -/

namespace Meaning.Completes

variable {m : Meaning} {s t : State} (h : m.Completes s t)
include h

theorem sameRun : SameRun s t := by
  cases h with
  | load | transfer => exact loaded_sameRun ..
  | store | adc | emitCell | emitA => exact ⟨rfl, rfl, rfl, rfl, rfl, rfl⟩

/-- 10_state.md R27. -/
theorem cursor : t.cursor = s.cursor + 1 + m.operandBytes := by
  cases h <;> simp [operandBytes] <;> omega

/-- 10_state.md R20: only the destination of its family changes. -/
theorem reg (q : Reg) (hq : m.family.dest ≠ some q) : t.reg q = s.reg q := by
  have hne (r : Reg) (hr : some r ≠ some q) : q ≠ r := fun e => hr (e ▸ rfl)
  cases h with
  | load | transfer => simp [hne _ hq]
  | adc => simp [hne _ hq]
  | store | emitCell | emitA => cases q <;> rfl

/-- 20_memory.md R57: a store writes one cell that exists, and nothing else writes Memory. -/
theorem mem : t.mem = s.mem ∨ ∃ ea v, ea < s.cfg.memSize ∧ t.mem = s.mem.write ea v := by
  cases h with
  | store r m ea _ hlt => exact .inr ⟨ea, s.reg r, hlt, rfl⟩
  | load | transfer | adc | emitCell | emitA => exact .inl (by simp)

/-- 10_state.md R24, R25: a load or a transfer sets Z and N from the new value of its destination. -/
theorem regP_of_dest (d : Reg) (hf : m.family = .load d ∨ ∃ q, m.family = .transfer q d) :
    t.regP = setZN s.regP (t.reg d) := by
  cases h <;> simp_all [family]

/-- 45_adc.md R200. -/
theorem regP_of_adc (hf : m.family = .adc) :
    ∃ v, t.regA = adcResult s.regP s.regA v ∧ t.regP = adcFlags s.regP s.regA v := by
  cases h with
  | adc o v => exact ⟨v, rfl, rfl⟩
  | load | store | transfer | emitCell | emitA => cases hf

/-- 43_store.md R170, 46_diagnostic.md R223. -/
theorem regP_of_store_or_diagnostic (hf : (∃ r, m.family = .store r) ∨ m.family = .diagnostic) : t.regP = s.regP := by
  cases h with
  | store | emitCell | emitA => rfl
  | load | transfer | adc => simp [family] at hf

/-- 10_state.md R22: bits 2 to 5 of P are kept. -/
theorem unusedBits (k : Nat) (h2 : 2 ≤ k) (h5 : k ≤ 5) : t.regP.getLsbD k = s.regP.getLsbD k := by
  cases h with
  | load | transfer => exact setZN_unused _ _ k h2 h5
  | adc => exact adcFlags_unused _ _ _ k h2 h5
  | store | emitCell | emitA => rfl

/-- 10_state.md R29, 46_diagnostic.md R223: only the diagnostics emit, DIAGA the accumulator and DIAGZP its cell. -/
theorem out : t.out = s.out ∨ ∃ v, t.out = s.out ++ [v] ∧
    (m = .emitA ∧ v = s.regA ∨ ∃ b, m = .emitCell b ∧ v = s.mem.read b.toNat) := by
  cases h with
  | emitA => exact .inr ⟨_, rfl, .inl ⟨rfl, rfl⟩⟩
  | emitCell b v hv => exact .inr ⟨v, rfl, .inr ⟨b, rfl, memRead_eq_ok s b.toNat v hv⟩⟩
  | load | store | transfer | adc => exact .inl (by simp)

end Meaning.Completes

/-- The PC field, the configuration and bits 2 to 5 of P, through an instruction that completes or faults (10_state.md R22, R26). -/
theorem exec_keeps (i : Instr) (s t : State) (h : exec i s = .next t) :
    t.pcField = s.pcField ∧ t.cfg = s.cfg ∧ ∀ k, 2 ≤ k → k ≤ 5 → t.regP.getLsbD k = s.regP.getLsbD k := by
  obtain hc | ⟨ea, k, -, rfl⟩ := exec_next_cases i s t h
  · exact ⟨hc.sameRun.pcField, hc.sameRun.cfg, hc.unusedBits⟩
  · exact ⟨rfl, rfl, fun _ _ _ => rfl⟩

end Sys2Proof.Machine
end

section
/-! How far the decoder reads (spec/30_encoding.md R81 to R83; spec/40_dispatch.md R103). -/

namespace Sys2Proof

/-- R81: every instruction a form makes has as many operand bytes as the form says. -/
def Form.OperandsFit : Form → Prop
  | .f1 i => i.operands.length = 0
  | .f2 mk => ∀ b, (mk b).operands.length = 1
  | .f3 mk => ∀ w, (mk w).operands.length = 2

theorem tableForm_operandsFit (op : Byte) (f : Form) (h : tableForm op = some f) : f.OperandsFit := by
  unfold tableForm at h
  split at h <;> cases h <;> simp [Form.OperandsFit, Instr.operands]

theorem recognise_operandsFit (cfg : Config) (op : Byte) (f : Form) (h : recognise cfg op = some f) : f.OperandsFit := by
  unfold recognise at h
  split at h
  · exact tableForm_operandsFit op f h
  · split at h
    · cases h; exact fun _ => rfl
    · split at h
      · cases h; rfl
      · cases h

theorem Form.OperandsFit.read_length {f : Form} (hf : f.OperandsFit) (op : Byte) (r rest : List Byte) (i : Instr)
    (h : f.read op r = .instr i rest) : r.length = i.operands.length + rest.length := by
  unfold Form.read at h
  split at h <;> cases h
  · simp [show i.operands.length = 0 from hf]
  · next _ mk b => simp [show (mk b).operands.length = 1 from hf b, Nat.add_comm]
  · next _ mk lo hi => simp [show (mk (wordOf lo hi)).operands.length = 2 from hf _]; omega

/-- R83: what an instruction is decoded from is its opcode byte, its operand bytes and the rest. -/
theorem decode_instr_length (cfg : Config) (bytes rest : List Byte) (i : Instr) (h : decode cfg bytes = .instr i rest) :
    bytes.length = 1 + i.operands.length + rest.length := by
  unfold decode at h
  split at h
  · cases h
  · next op r =>
    split at h
    · cases h
    · next f hf =>
      have := (recognise_operandsFit cfg op f hf).read_length op r rest i h
      simp only [List.length_cons]
      omega

/-- R103: the decoder is at the end of code exactly when no byte is left. -/
theorem decode_eq_endOfCode_iff (cfg : Config) (bytes : List Byte) : decode cfg bytes = .endOfCode ↔ bytes = [] := by
  cases bytes with
  | nil => simp [decode]
  | cons op r =>
    cases hop : recognise cfg op with
    | none => simp [decode, hop]
    | some f =>
      rw [decode_cons cfg op r f hop]
      obtain hlt | hle := Nat.lt_or_ge r.length f.operandBytes
      · simp [f.read_of_lt op r hlt]
      · obtain ⟨i, hi⟩ := f.read_of_le op r hle
        simp [hi]

end Sys2Proof

namespace Sys2Proof.Machine

theorem fetch_eq_endOfCode_iff (s : State) : s.fetch = .endOfCode ↔ s.code.length ≤ s.cursor := by
  rw [State.fetch, decode_eq_endOfCode_iff, List.drop_eq_nil_iff]

theorem cursor_lt_of_fetch_ne (s : State) (h : s.fetch ≠ .endOfCode) : s.cursor < s.code.length :=
  Nat.lt_of_not_le fun hle => h ((fetch_eq_endOfCode_iff s).2 hle)

theorem fetch_instr_length (s : State) (i : Instr) (rest : List Byte) (h : s.fetch = .instr i rest) :
    s.cursor + 1 + i.operands.length ≤ s.code.length := by
  have := decode_instr_length _ _ _ _ h
  rw [List.length_drop] at this
  omega

/-- 30_encoding.md R81: at most two operand bytes. -/
theorem Meaning.operandBytes_le_two (m : Meaning) : m.operandBytes ≤ 2 := by
  have hmode (a : AddrMode) : a.operandBytes ≤ 2 := by cases a <;> simp [AddrMode.operandBytes]
  have hoperand (o : Operand) : o.operandBytes ≤ 2 := by
    cases o with
    | imm v => simp [Operand.operandBytes]
    | mem a => exact hmode a
  cases m with
  | load _ o | adc o => exact hoperand o
  | store _ a => exact hmode a
  | transfer | emitCell | emitA => simp [Meaning.operandBytes]

/-- 40_dispatch.md R104: the opcode byte of a record, where the cursor is at a byte of code. -/
theorem code_at_cursor (s : State) (h : s.cursor < s.code.length) : s.code[s.cursor]? = some s.opcodeByte := by
  simp [State.opcodeByte, h]

/-! ### Everything a step of a Run leads to -/

/-- A step of a Run by what becomes of the Run: it goes on past whole bytes of code, ends at the end of code, or takes a fault. -/
theorem stepRun_outcomes (s t : State) (h : stepRun s = .next t) :
    (s.code.length ≤ s.cursor ∧ t = s.finishRun) ∨
    (s.cursor < s.code.length ∧ ∃ k, t = s.takeFault k) ∨
    (SameRun s t ∧ s.cursor < t.cursor ∧ t.cursor ≤ s.cursor + 3 ∧ t.cursor ≤ s.code.length ∧
      (t.mem = s.mem ∨ ∃ ea v, ea < s.cfg.memSize ∧ t.mem = s.mem.write ea v)) := by
  obtain ⟨hf, rfl⟩ | ⟨op, hf, rfl⟩ | ⟨op, hf, rfl⟩ | ⟨i, rest, hf, he⟩ := stepRun_cases s t h
  · exact .inl ⟨(fetch_eq_endOfCode_iff s).1 hf, rfl⟩
  · have hlt := cursor_lt_of_fetch_ne s (by simp [hf])
    exact .inr (.inr ⟨⟨rfl, rfl, rfl, rfl, rfl, rfl⟩, by simp, by simp, by simpa using hlt, .inl rfl⟩)
  · exact .inr (.inl ⟨cursor_lt_of_fetch_ne s (by simp [hf]), _, rfl⟩)
  · obtain hc | ⟨ea, k, -, rfl⟩ := exec_next_cases i s t he
    · have hcur := hc.cursor
      have htwo := (meaningOf i).operandBytes_le_two
      have hlen := fetch_instr_length s i rest hf
      rw [operands_length] at hlen
      exact .inr (.inr ⟨hc.sameRun, by omega, by omega, by omega, hc.mem⟩)
    · exact .inr (.inl ⟨cursor_lt_of_fetch_ne s (by simp [hf]), _, rfl⟩)

end Sys2Proof.Machine
end

section
/-! The invariant `State.Good` through each kind of step. -/

namespace Sys2Proof.Machine

namespace State.Good

variable {s : State} (hs : s.Good)
include hs

/-- 60_exceptions.md R241: no fault is marked while a Run executes. -/
theorem unmarked_of_running (hp : s.phase = .running) : s.fault = none := by
  by_contra hf
  have := hs.marked.2 hf
  simp [hp] at this

/-- 40_dispatch.md R103: the end of a Run. -/
theorem finishRun (hp : s.phase = .running) (hend : s.code.length ≤ s.cursor) : s.finishRun.Good where
  config := hs.config
  memory := hs.memory
  cells := hs.cells
  pc := hs.pc
  cursor := hs.cursor
  finished := fun _ => Nat.le_antisymm hs.cursor hend
  marked := by simp [hs.unmarked_of_running hp]
  oneCall := by simp
  record := by simp [hs.unmarked_of_running hp]

/-- 60_exceptions.md R241: taking a fault at a byte of code. -/
theorem takeFault (hp : s.phase = .running) (hlt : s.cursor < s.code.length) (k : FaultKind) : (s.takeFault k).Good where
  config := hs.config
  memory := hs.memory
  cells := hs.cells
  pc := hs.pc
  cursor := hs.cursor
  finished := by simp
  marked := by simp
  oneCall := fun _ => hs.oneCall (.inl hp)
  record := by
    intro r hr
    cases hr
    exact ⟨rfl, code_at_cursor s hlt⟩

/-- 40_dispatch.md R107: the Run goes on, with at most one cell that exists written. -/
theorem sameRun {t : State} (hp : s.phase = .running) (hrun : SameRun s t) (hcur : t.cursor ≤ s.code.length)
    (hmem : t.mem = s.mem ∨ ∃ ea v, ea < s.cfg.memSize ∧ t.mem = s.mem.write ea v) : t.Good where
  config := hrun.cfg ▸ hs.config
  memory := by
    obtain h | ⟨ea, v, -, h⟩ := hmem
    · exact h ▸ hs.memory
    · exact h ▸ Memory.write_wf s.mem ea v hs.memory
  cells := by
    rw [hrun.cfg]
    obtain h | ⟨ea, v, hea, h⟩ := hmem
    · exact h ▸ hs.cells
    · exact h ▸ Memory.write_within s.mem ea v _ hea hs.cells
  pc := hrun.pcField.trans hs.pc
  cursor := hrun.code ▸ hcur
  finished := by simp [hrun.phase, hp]
  marked := by simp [hrun.phase, hrun.fault, hp, hs.unmarked_of_running hp]
  oneCall := fun _ => hrun.runCall.trans (hs.oneCall (.inl hp))
  record := by simp [hrun.fault, hs.unmarked_of_running hp]

/-- 40_dispatch.md R102: the start of a Run. -/
theorem startRun (hf : s.fault = none) (c : List Byte) : (s.startRun c).Good where
  config := hs.config
  memory := hs.memory
  cells := hs.cells
  pc := hs.pc
  cursor := Nat.zero_le _
  finished := by simp
  marked := by simp [hf]
  oneCall := fun _ => rfl
  record := by simp [hf]

end State.Good

/-- Settles O37: each of the four kinds of step that change the state keeps the invariant. -/
theorem everyStepKeepsGood : Obligations.EveryStepKeepsGood := by
  intro s t hs h
  obtain ⟨-, ⟨hp, hrun⟩ | ⟨-, hb⟩⟩ := step_cases s t h
  · obtain ⟨hend, rfl⟩ | ⟨hlt, k, rfl⟩ | ⟨hsame, -, -, hcur, hmem⟩ := stepRun_outcomes s t hrun
    · exact hs.finishRun hp hend
    · exact hs.takeFault hp hlt k
    · exact hs.sameRun hp hsame hcur hmem
  · obtain ⟨hf, ⟨-, rfl⟩ | ⟨c, -, rfl⟩⟩ := betweenRuns_cases s t hb
    · exact hs
    · exact hs.startRun hf c

/-- Settles O7, by the bit-by-bit law of `setZN`. -/
theorem setZNWritesZeroAndNegativeOnly : Obligations.SetZNWritesZeroAndNegativeOnly := by
  intro p v
  refine ⟨flagOf_setZN_z p v, flagOf_setZN_n p v, fun k h1 h7 => ?_, Iff.rfl⟩
  rw [getLsbD_setZN, if_neg h7, if_neg h1]

/-- Settles O32: a completed instruction and a skipped byte move the cursor, the end of code and a fault do not. -/
theorem cursorMovesForwardThroughARun : Obligations.CursorMovesForwardThroughARun := by
  intro s t hp h
  obtain ⟨-, ⟨-, hrun⟩ | ⟨hn, -⟩⟩ := step_cases s t h
  · obtain ⟨-, rfl⟩ | ⟨-, k, rfl⟩ | ⟨hsame, hlt, hthree, hcur, -⟩ := stepRun_outcomes s t hrun
    · exact ⟨rfl, rfl, .inr ⟨by simp, rfl⟩⟩
    · exact ⟨rfl, rfl, .inr ⟨by simp, rfl⟩⟩
    · exact ⟨hsame.code, hsame.cfg, .inl ⟨hsame.phase.trans hp, hlt, hthree, hcur⟩⟩
  · exact absurd hp hn

/-- Settles O39: a register that differs is the destination of the family, and the table lists the families by destination. -/
theorem registersAreWrittenByTheirTable : Obligations.RegistersAreWrittenByTheirTable := by
  intro i s t h
  have hdest (q : Reg) (hq : t.reg q ≠ s.reg q) : (familyOf i).dest = some q := by
    by_contra hne
    obtain hc | ⟨ea, k, -, rfl⟩ := exec_next_cases i s t h
    · exact hq (hc.reg q (familyOf_eq i ▸ hne))
    · exact hq (takeFault_reg s _ q)
  have htable : ∀ f ∈ families,
      (f.dest = some .a → f ∈ [.load .a, .transfer .x .a, .transfer .y .a, .adc]) ∧
      (f.dest = some .x → f ∈ [.load .x, .transfer .a .x, .transfer .s .x]) ∧
      (f.dest = some .y → f ∈ [.load .y, .transfer .a .y]) ∧
      (f.dest = some .s → f = .transfer .x .s) := by decide
  obtain ⟨ha, hx, hy, hsp⟩ := htable _ (familyOf_mem_families i)
  exact ⟨fun hq => ha (hdest .a hq), fun hq => hx (hdest .x hq), fun hq => hy (hdest .y hq), fun hq => hsp (hdest .s hq)⟩

/-- Settles O43: by the cases of a step, only the dump and the two diagnostics emit. -/
theorem traceGrowsByDiagnosticsAndDumpOnly : Obligations.TraceGrowsByDiagnosticsAndDumpOnly := by
  intro s t h
  obtain ⟨-, ⟨hp, hrun⟩ | ⟨-, hb⟩⟩ := step_cases s t h
  · obtain ⟨hf, rfl⟩ | ⟨op, -, rfl⟩ | ⟨op, -, rfl⟩ | ⟨i, rest, hf, he⟩ := stepRun_cases s t hrun
    · exact .inr ⟨hp, s.regA, rfl, .inl ⟨hf, rfl⟩⟩
    · exact .inl rfl
    · exact .inl rfl
    · obtain hc | ⟨ea, k, -, rfl⟩ := exec_next_cases i s t he
      · obtain hout | ⟨v, hout, ⟨hm, hv⟩ | ⟨b, hm, hv⟩⟩ := hc.out
        · exact .inl hout
        · exact .inr ⟨hp, v, hout, .inr (.inl ⟨rest, eq_diaga_of_meaningOf i hm ▸ hf, hv⟩)⟩
        · exact .inr ⟨hp, v, hout, .inr (.inr ⟨b, rest, eq_diagzp_of_meaningOf i b hm ▸ hf, hv⟩)⟩
      · exact .inl rfl
  · obtain ⟨-, ⟨-, rfl⟩ | ⟨c, -, rfl⟩⟩ := betweenRuns_cases s t hb <;> exact .inl rfl

end Sys2Proof.Machine
end

section
/-! What an instruction does not read: the PC field, S but for TSX, and P but for the carry of ADC (spec/10_state.md R20, R25, R26). -/

namespace Sys2Proof.Machine

/-! ### The operands read the configuration, Memory, X and Y alone -/

/-- Two states alike in all that an operand is made from (41_addressing.md R120 to R130). -/
structure SameOperands (s u : State) : Prop where
  cfg : u.cfg = s.cfg
  mem : u.mem = s.mem
  regX : u.regX = s.regX
  regY : u.regY = s.regY

namespace SameOperands

variable {s u : State} (h : SameOperands s u)
include h

theorem memRead (a : Nat) : u.memRead a = s.memRead a := by
  simp [State.memRead, h.cfg, h.mem]

theorem ptrRead (p : Byte) : u.ptrRead p = s.ptrRead p := by
  simp [State.ptrRead, h.cfg, h.memRead]

theorem effectiveAddress (m : AddrMode) : u.effectiveAddress m = s.effectiveAddress m := by
  cases m <;> simp [State.effectiveAddress, h.regX, h.regY, h.ptrRead]

theorem operandValue (o : Operand) : u.operandValue o = s.operandValue o := by
  simp only [State.operandValue, State.resolve, h.effectiveAddress, h.memRead]

end SameOperands

/-! ### Each shared operation as one access and what follows it -/

/-- 20_memory.md R57: the address of a store, checked. -/
def State.writeAddress (s : State) (m : AddrMode) : Except FaultKind Nat :=
  match s.effectiveAddress m with
  | .error k => .error k
  | .ok ea => if s.cfg.memSize ≤ ea then .error (.addressOutOfRange ea .write) else .ok ea

theorem SameOperands.writeAddress {s u : State} (h : SameOperands s u) (m : AddrMode) :
    u.writeAddress m = s.writeAddress m := by
  simp only [State.writeAddress, h.effectiveAddress, h.cfg]

theorem load_eq (r : Reg) (o : Operand) (s : State) :
    load r o s = s.complete ((s.operandValue o).map fun v => s.loaded r v o.operandBytes) := by
  unfold load
  cases s.operandValue o <;> rfl

theorem store_eq (r : Reg) (m : AddrMode) (s : State) :
    store r m s = s.complete ((s.writeAddress m).map fun ea =>
      { s with mem := s.mem.write ea (s.reg r) }.advance m.operandBytes) := by
  unfold store State.storeTo State.writeAddress
  cases s.effectiveAddress m with
  | error k => rfl
  | ok ea =>
    by_cases hle : s.cfg.memSize ≤ ea
    · simp only [memWrite_error s ea _ hle, if_pos hle]; rfl
    · simp only [memWrite_ok s ea _ (Nat.lt_of_not_le hle), if_neg hle]; rfl

theorem adc_eq (o : Operand) (s : State) :
    adc o s = s.complete ((s.operandValue o).map fun v => (s.add v).advance o.operandBytes) := by
  unfold adc
  cases s.operandValue o <;> rfl

theorem emitCell_eq (b : Byte) (s : State) :
    emitCell b s = s.complete ((s.operandValue (.mem (.zp b))).map fun v => (s.emit v).advance 1) := by
  unfold emitCell
  cases s.operandValue (.mem (.zp b)) <;> rfl

/-- Two states whose accesses answer alike go to related states, if each effect and each fault relates them. -/
theorem complete_related {α : Type} {R : State → State → Prop} {s u t : State} (hfault : ∀ k, R (s.takeFault k) (u.takeFault k))
    (x : Except FaultKind α) (f g : α → State) (h : s.complete (x.map f) = .next t) (hfg : ∀ a, R (f a) (g a)) :
    ∃ t', u.complete (x.map g) = .next t' ∧ R t t' := by
  cases x with
  | error k => cases h; exact ⟨_, rfl, hfault k⟩
  | ok a => cases h; exact ⟨_, rfl, hfg a⟩

/-! ### A difference in S, P and the PC field -/

/-- The state with S, P and the PC field of one's own. -/
def State.withUnread (s : State) (v p : Byte) (w : Word) : State := { s with regS := v, regP := p, pcField := w }

/-- The states `t` and `t'` that `s` and `u` lead to differ in nothing but S, P and the PC field; in S and in P only where `s` and
`u` did, and the PC field is as it was. -/
structure StaysUnread (s u t t' : State) : Prop where
  rest : t' = t.withUnread t'.regS t'.regP t'.pcField
  regS : u.regS = s.regS → t'.regS = t.regS
  regP : u.regP = s.regP → t'.regP = t.regP
  pcField : t'.pcField = u.pcField

/-- The register whose value a family stores or moves. -/
def Family.source : Family → Option Reg
  | .store r => some r
  | .transfer src _ => some src
  | .load _ => none
  | .adc => none
  | .diagnostic => none

variable (s : State) (v p : Byte) (w : Word)

theorem withUnread_sameOperands : SameOperands s (s.withUnread v p w) := ⟨rfl, rfl, rfl, rfl⟩

theorem withUnread_reg (q : Reg) (h : q = .s → v = s.regS) : (s.withUnread v p w).reg q = s.reg q := by
  cases q with
  | s => exact h rfl
  | a | x | y => rfl

theorem withUnread_loaded (r : Reg) (b : Byte) (n : Nat) :
    StaysUnread s (s.withUnread v p w) (s.loaded r b n) ((s.withUnread v p w).loaded r b n) where
  rest := by cases r <;> rfl
  regS := by cases r <;> simp [State.loaded, State.withUnread]
  regP := fun h => congrArg (setZN · b) h
  pcField := by cases r <;> rfl

theorem withUnread_add (hC : p.getLsbD 0 = s.regP.getLsbD 0) (b : Byte) (n : Nat) :
    StaysUnread s (s.withUnread v p w) ((s.add b).advance n) (((s.withUnread v p w).add b).advance n) where
  rest := by
    have hsum : adcResult p s.regA b = adcResult s.regP s.regA b := congrArg (BitVec.ofNat 8) (adcSum_congr p s.regP _ b hC)
    simp [State.add, State.setReg, State.setP, State.advance, State.withUnread, hsum]
  regS := id
  regP := fun h => congrArg (adcFlags · s.regA b) h
  pcField := rfl

/-- 10_state.md R20, R25, R26: S is read as a source alone, P by ADC alone and there the carry alone, the PC field by nothing. -/
theorem run_withUnread (m : Meaning) (t : State) (hS : m.family.source = some .s → v = s.regS)
    (hC : m.family = .adc → p.getLsbD 0 = s.regP.getLsbD 0) (h : m.run s = .next t) :
    ∃ t', m.run (s.withUnread v p w) = .next t' ∧ StaysUnread s (s.withUnread v p w) t t' := by
  have same := withUnread_sameOperands s v p w
  have hfault (k : FaultKind) : StaysUnread s (s.withUnread v p w) (s.takeFault k) ((s.withUnread v p w).takeFault k) :=
    ⟨rfl, id, id, rfl⟩
  cases m with
  | load r o =>
    simp only [Meaning.run, load_eq, same.operandValue] at h ⊢
    exact complete_related hfault _ _ _ h (fun b => withUnread_loaded s v p w r b _)
  | store r m =>
    have hr : (s.withUnread v p w).reg r = s.reg r := withUnread_reg s v p w r fun e => hS (congrArg some e)
    simp only [Meaning.run, store_eq, same.writeAddress, hr] at h ⊢
    exact complete_related hfault _ _ _ h (fun ea => ⟨rfl, id, id, rfl⟩)
  | transfer src dst =>
    have hr : (s.withUnread v p w).reg src = s.reg src := withUnread_reg s v p w src fun e => hS (congrArg some e)
    have heff := withUnread_loaded s v p w dst (s.reg src) 0
    cases h
    exact ⟨_, rfl, by rw [hr]; exact heff⟩
  | adc o =>
    simp only [Meaning.run, adc_eq, same.operandValue] at h ⊢
    exact complete_related hfault _ _ _ h (fun b => withUnread_add s v p w (hC rfl) b _)
  | emitCell b =>
    simp only [Meaning.run, emitCell_eq, same.operandValue] at h ⊢
    exact complete_related hfault _ _ _ h (fun b => ⟨rfl, id, id, rfl⟩)
  | emitA =>
    cases h
    exact ⟨_, rfl, rfl, id, id, rfl⟩

theorem eq_tsx_of_source (i : Instr) (h : (familyOf i).source = some .s) : i = .tsx := by
  have htable : ∀ f ∈ families, f.source = some .s → f = .transfer .s .x := by decide
  exact eq_tsx_of_familyOf i .x (htable _ (familyOf_mem_families i) h)

/-- `run_withUnread` for the instructions. -/
theorem exec_withUnread (i : Instr) (t : State) (hS : i = .tsx → v = s.regS)
    (hC : familyOf i = .adc → p.getLsbD 0 = s.regP.getLsbD 0) (h : exec i s = .next t) :
    ∃ t', exec i (s.withUnread v p w) = .next t' ∧ StaysUnread s (s.withUnread v p w) t t' := by
  rw [exec_eq_run] at h ⊢
  rw [familyOf_eq] at hC
  exact run_withUnread s v p w _ t (fun hs => hS (eq_tsx_of_source i (familyOf_eq i ▸ hs))) hC h

/-! ### The PC field through a step -/

/-- An outcome with its next state changed, and a stop left as it is. -/
def mapNext (f : State → State) : Host.Outcome State Fault Refusal → Host.Outcome State Fault Refusal
  | .next t => .next (f t)
  | .fault r => .fault r
  | .refused r => .refused r

/-- The state with a PC field of one's own. -/
def State.withPc (s : State) (w : Word) : State := { s with pcField := w }

theorem exec_withPc (i : Instr) : exec i (s.withPc w) = mapNext (·.withPc w) (exec i s) := by
  obtain ⟨t, ht, -⟩ := exec_cases i s
  obtain ⟨t', ht', hu⟩ := exec_withUnread s s.regS s.regP w i t (fun _ => rfl) (fun _ => rfl) ht
  have heq : t' = t.withPc w := by
    rw [hu.rest, hu.regS rfl, hu.regP rfl, hu.pcField]
    rfl
  rw [ht, mapNext, ← heq, ← ht']
  rfl

theorem stepRun_withPc : stepRun (s.withPc w) = mapNext (·.withPc w) (stepRun s) := by
  have hf : (s.withPc w).fetch = s.fetch := rfl
  simp only [stepRun, hf]
  cases s.fetch with
  | instr i rest => exact exec_withPc s w i
  | unrecognised op | truncated op | endOfCode => rfl

theorem betweenRuns_withPc : (s.withPc w).betweenRuns = mapNext (·.withPc w) s.betweenRuns := by
  have hf : (s.withPc w).fault = s.fault := rfl
  have hq : (s.withPc w).runCall = s.runCall := rfl
  simp only [State.betweenRuns, hf, hq]
  cases s.fault <;> cases s.runCall <;> rfl

/-- 10_state.md R26: no step reads the PC field. -/
theorem step_withPc : step (s.withPc w) = mapNext (·.withPc w) (step s) := by
  cases hc : s.cfg.wellFormed with
  | false => rw [step_badConfiguration s hc, step_badConfiguration (s.withPc w) hc]; rfl
  | true =>
    by_cases hp : s.phase = .running
    · rw [step_running s hc hp, step_running (s.withPc w) hc hp, stepRun_withPc]
    · rw [step_between s hc hp, step_between (s.withPc w) hc hp, betweenRuns_withPc]

/-- 10_state.md R22, R26, 70_reset_and_hazards.md R263: what no step writes. -/
theorem step_keeps (t : State) (h : step s = .next t) :
    t.pcField = s.pcField ∧ t.cfg = s.cfg ∧ ∀ k, 2 ≤ k → k ≤ 5 → t.regP.getLsbD k = s.regP.getLsbD k := by
  obtain ⟨-, ⟨-, hrun⟩ | ⟨-, hb⟩⟩ := step_cases s t h
  · obtain ⟨-, rfl⟩ | ⟨op, -, rfl⟩ | ⟨op, -, rfl⟩ | ⟨i, rest, -, he⟩ := stepRun_cases s t hrun
    · exact ⟨rfl, rfl, fun _ _ _ => rfl⟩
    · exact ⟨rfl, rfl, fun _ _ _ => rfl⟩
    · exact ⟨rfl, rfl, fun _ _ _ => rfl⟩
    · exact exec_keeps i s t he
  · obtain ⟨-, ⟨-, rfl⟩ | ⟨c, -, rfl⟩⟩ := betweenRuns_cases s t hb <;> exact ⟨rfl, rfl, fun _ _ _ => rfl⟩

end Sys2Proof.Machine
end

section
/-! The statements on what no step reads, and the flag table. -/

namespace Sys2Proof.Machine

/-- Settles O38: a step commutes with a change of the PC field, and no kind of step writes it. -/
theorem noStepWritesPcFieldOrUnusedFlagBits : Obligations.NoStepWritesPcFieldOrUnusedFlagBits := by
  refine ⟨step_keeps, fun s t w h => ?_, fun s r w h => ?_, fun s r w h => ?_, fun _ _ => rfl⟩
  all_goals exact (step_withPc s w).trans (congrArg (mapNext (·.withPc w)) h)

/-- Settles O40: S is read as the source of a store or a transfer alone, and of these only TSX has S as its source. -/
theorem onlyTsxReadsS : Obligations.OnlyTsxReadsS := by
  intro i s t v hi h
  obtain ⟨u, hu, hrest⟩ := exec_withUnread s v s.regP s.pcField i t (absurd · hi) (fun _ => rfl) h
  have hpc : u.pcField = t.pcField := hrest.pcField.trans (exec_keeps i s t h).1.symm
  refine ⟨u, hu, ?_⟩
  rw [hrest.rest, hrest.regP rfl, hpc]
  rfl

namespace Meaning.Completes

variable {m : Meaning} {s t : State} (h : m.Completes s t)
include h

/-- 10_state.md R25, the row of the loads and the transfers. -/
theorem flags_of_dest (d : Reg) (hd : m.family = .load d ∨ ∃ q, m.family = .transfer q d) :
    t.flag .z = decide (t.reg d = 0#8) ∧ t.flag .n = (t.reg d).getLsbD 7 ∧
    t.flag .c = s.flag .c ∧ t.flag .v = s.flag .v := by
  simp only [State.flag, h.regP_of_dest d hd]
  exact ⟨flagOf_setZN_z _ _, flagOf_setZN_n _ _, flagOf_setZN_c _ _, flagOf_setZN_v _ _⟩

/-- 10_state.md R25, the row of ADC. -/
theorem flags_of_adc (ha : m.family = .adc) :
    (∃ v : Byte, t.regA.toNat = (s.regA.toNat + v.toNat + (s.flag .c).toNat) % 256 ∧
      t.flag .c = decide (s.regA.toNat + v.toNat + (s.flag .c).toNat > 255)) ∧
    t.flag .z = decide (s.regA = 0#8) ∧ t.flag .v = (s.regA.getLsbD 7 != t.regA.getLsbD 7) ∧
    t.flag .n = t.regA.getLsbD 7 := by
  obtain ⟨v, hA, hP⟩ := h.regP_of_adc ha
  simp only [State.flag, hP, hA]
  exact ⟨⟨v, toNat_adcResult _ _ _, flagOf_adcFlags_c _ _ _⟩, flagOf_adcFlags_z _ _ _, flagOf_adcFlags_v _ _ _,
    flagOf_adcFlags_n _ _ _⟩

end Meaning.Completes

/-- Settles O41: the written flags by the family of the instruction, the one flag read by changing P in the state before. -/
theorem flagsFollowTheirTable : Obligations.FlagsFollowTheirTable := by
  refine ⟨fun i s t _ h hp => ?_, fun s t op hp hf h => ?_, fun i s t p hC h => ?_⟩
  · obtain hc | ⟨ea, k, -, rfl⟩ := exec_next_cases i s t h
    · rw [familyOf_eq]
      exact ⟨hc.unusedBits, hc.flags_of_dest, hc.flags_of_adc, hc.regP_of_store_or_diagnostic⟩
    · cases hp
  · obtain ⟨hw, -⟩ := step_cases s t h
    rw [step_running s hw hp, stepRun, hf] at h
    cases h
    rfl
  · obtain ⟨u, hu, hrest⟩ := exec_withUnread s s.regS p s.pcField i t (fun _ => rfl) hC h
    have hpc : u.pcField = t.pcField := hrest.pcField.trans (exec_keeps i s t h).1.symm
    refine ⟨u, hu, ?_⟩
    rw [hrest.rest, hrest.regS rfl, hpc]
    rfl

end Sys2Proof.Machine
end

section
/-! The laws of Memory its statements share: the canonical form lists exactly the cells that do not read as unlisted, the 8-bit
and the 16-bit form of an address, and what a data access out of range leaves (spec/20_memory.md sections 1 and 2). -/

namespace Sys2Proof.Machine

/-! ### The canonical form -/

/-- 20_memory.md R51: a canonical Memory lists a cell exactly when its address reads that byte and the byte is not the fill. -/
theorem Memory.mem_iff_read (m : Memory) (h : m.wf = true) (a : Nat) (v : Byte) :
    (a, v) ∈ m ↔ m.read a = v ∧ v ≠ unlistedByte := by
  induction m with
  | nil => exact ⟨fun hm => absurd hm List.not_mem_nil, fun ⟨hr, hv⟩ => absurd hr.symm hv⟩
  | cons c rest ih =>
    obtain ⟨k, b⟩ := c
    obtain ⟨hk, hb, hrest⟩ := (Memory.wf_cons k b rest).1 h
    by_cases hka : k = a
    · subst hka
      have hout (hm : (k, v) ∈ rest) : False := Nat.lt_irrefl k (hk _ hm)
      simp only [Memory.read, if_true, List.mem_cons, Prod.mk.injEq, true_and]
      exact ⟨fun hm => hm.elim (fun e => ⟨e.symm, e ▸ hb⟩) (fun hm => (hout hm).elim), fun ⟨e, _⟩ => .inl e.symm⟩
    · simp [Memory.read, hka, Ne.symm hka, ih hrest]

/-! ### Zero page and absolute -/

/-- 20_memory.md R52: the 16-bit form of a byte is the same number. -/
@[simp] theorem toNat_zext16 (b : Byte) : (zext16 b).toNat = b.toNat := by
  have := b.isLt
  simp only [zext16, BitVec.toNat_setWidth]
  omega

/-- R52: the resolver gives both forms one address. -/
theorem effectiveAddress_zp (s : State) (b : Byte) : s.effectiveAddress (.zp b) = s.effectiveAddress (.abs (zext16 b)) := by
  simp [State.effectiveAddress]

/-! ### An access out of range -/

section
variable (s : State) (op : Byte) (hop : s.code[s.cursor]? = some op)
include hop

/-- 10_state.md R30: the record of a fault names the opcode byte at the cursor. -/
theorem takeFault_eq_faultedFrom (k : FaultKind) : s.takeFault k = faultedFrom s k op := by
  simp [State.takeFault, State.opcodeByte, faultedFrom, hop]

variable (hsize : 256 ≤ s.cfg.memSize) (m : AddrMode) (ha : s.cfg.memSize ≤ addressOf s m)
include hsize ha

/-- 20_memory.md R56, 42_load.md R140: a load out of range. -/
theorem load_outOfRange (r : Reg) :
    load r (.mem m) s = .next (faultedFrom s (.addressOutOfRange (addressOf s m) .read) op) := by
  rw [← takeFault_eq_faultedFrom s op hop, load_eq, operandValue_error s m hsize ha]
  rfl

/-- 20_memory.md R56, 45_adc.md R200: ADC of an operand out of range. -/
theorem adc_outOfRange :
    adc (.mem m) s = .next (faultedFrom s (.addressOutOfRange (addressOf s m) .read) op) := by
  rw [← takeFault_eq_faultedFrom s op hop, adc_eq, operandValue_error s m hsize ha]
  rfl

/-- 20_memory.md R57, 43_store.md R170: a store out of range. -/
theorem store_outOfRange (r : Reg) :
    store r m s = .next (faultedFrom s (.addressOutOfRange (addressOf s m) .write) op) := by
  rw [← takeFault_eq_faultedFrom s op hop, store, storeTo_error s m _ hsize ha]
  rfl

end

/-! ### What a completed instruction leaves of Memory -/

/-- 20_memory.md R55: an instruction of no store family leaves Memory as it was. -/
theorem Meaning.Completes.mem_of_not_store {m : Meaning} {s t : State} (h : m.Completes s t)
    (hf : ∀ r, m.family ≠ .store r) : t.mem = s.mem := by
  cases h with
  | store r => exact absurd rfl (hf r)
  | load | transfer | adc | emitCell | emitA => simp

/-- 20_memory.md R57: a completed store leaves every cell but the one at its address. -/
theorem Meaning.Completes.read_of_store {r : Reg} {m : AddrMode} {s t : State} (h : (Meaning.store r m).Completes s t)
    (hm : s.mem.wf = true) (ea : Nat) (hea : s.effectiveAddress m = .ok ea) (addr : Nat) (hne : addr ≠ ea) :
    t.mem.read addr = s.mem.read addr := by
  cases h with
  | store r m ea' hea' =>
    obtain rfl : ea' = ea := Except.ok.inj (hea'.symm.trans hea)
    exact (Memory.read_write s.mem ea' (s.reg r) addr hm).trans (if_neg hne)

end Sys2Proof.Machine
end

section
/-! What the host's acts answer, and `State.Good` through them and at construction (spec/20_memory.md R67, R68). -/

namespace Sys2Proof.Machine

/-- R68: from the call of a Run to its return the host may not act. -/
theorem hostMayAct_eq_false_iff (s : State) : s.hostMayAct = false ↔ s.phase = .running ∨ s.runCall ≠ none := by
  rw [← Bool.not_eq_true, hostMayAct_iff]
  tauto

/-- R110: a configuration that is not admitted. -/
theorem launch_badConfiguration (cfg : Config) (cpus : List (Nat × Memory)) (h : cfg.wellFormed = false) :
    launch cfg cpus = .error .badConfiguration := by
  simp [launch, h]

/-- R67: a handle that stands twice. -/
theorem launch_sharedMemory (cfg : Config) (cpus : List (Nat × Memory)) (h : cfg.wellFormed = true)
    (hdup : ¬ (cpus.map Prod.fst).Nodup) : launch cfg cpus = .error .sharedMemory := by
  simp only [launch, h, if_true, if_neg hdup]

/-- R250: Memories of their own. -/
theorem launch_ok (cfg : Config) (cpus : List (Nat × Memory)) (h : cfg.wellFormed = true) (hdup : (cpus.map Prod.fst).Nodup)
    (hmem : ∀ c ∈ cpus, c.2.wf = true ∧ c.2.within cfg.memSize = true) :
    launch cfg cpus = .ok (cpus.map fun c => State.construct cfg c.2) := by
  have hall : cpus.all (fun c => c.2.wf && c.2.within cfg.memSize) = true := by
    simpa only [List.all_eq_true, Bool.and_eq_true] using hmem
  simp only [launch, h, if_true, if_pos hdup, hall]

/-- Two Cpus at different places of the list with one handle: the handles are not all different. -/
theorem not_nodup_of_same_handle (cpus : List (Nat × Memory)) (i j h : Nat) (m n : Memory) (hij : i < j)
    (hi : cpus[i]? = some (h, m)) (hj : cpus[j]? = some (h, n)) : ¬ (cpus.map Prod.fst).Nodup := by
  intro hnodup
  obtain ⟨hlt, -⟩ := List.getElem?_eq_some_iff.1 hj
  refine List.nodup_iff_getElem?_ne_getElem?.1 hnodup i j hij (by simpa using hlt) ?_
  simp [List.getElem?_map, hi, hj]

/-- 70_reset_and_hazards.md R260: a Cpu constructed on a canonical Memory of MEM_SIZE cells. -/
theorem construct_good (cfg : Config) (m : Memory) (hc : cfg.wellFormed = true) (hm : m.wf = true)
    (hcells : m.within cfg.memSize = true) : (State.construct cfg m).Good where
  config := hc
  memory := hm
  cells := hcells
  pc := rfl
  cursor := Nat.le_refl 0
  finished := nofun
  marked := by simp [State.construct]
  oneCall := fun _ => rfl
  record := nofun

namespace State.Good

variable {s : State} (hs : s.Good)
include hs

/-- 20_memory.md R50, R51: one cell that exists, written between Runs or by a store. -/
theorem writeCell (addr : Nat) (v : Byte) (ha : addr < s.cfg.memSize) : { s with mem := s.mem.write addr v }.Good where
  config := hs.config
  memory := Memory.write_wf s.mem addr v hs.memory
  cells := Memory.write_within s.mem addr v _ ha hs.cells
  pc := hs.pc
  cursor := hs.cursor
  finished := hs.finished
  marked := hs.marked
  oneCall := hs.oneCall
  record := hs.record

/-- 20_memory.md R68, 60_exceptions.md R242: a Run call made between Runs on a Cpu that is not faulted. -/
theorem callRun (hp : s.phase ≠ .running) (hf : s.fault = none) (code : List Byte) : (s.callRun code).Good where
  config := hs.config
  memory := hs.memory
  cells := hs.cells
  pc := hs.pc
  cursor := hs.cursor
  finished := hs.finished
  marked := hs.marked
  oneCall := fun h => h.elim (absurd · hp) (fun hfaulted => absurd hf (hs.marked.1 hfaulted))
  record := hs.record

end State.Good

end Sys2Proof.Machine
end

section
/-! The statements on Memory and the host's acts. -/

namespace Sys2Proof.Machine

/-- Settles O21: each form is a load or an ADC through one mode, whose address is out of range. -/
theorem outOfRangeReadsFault : Obligations.OutOfRangeReadsFault := by
  intro s op hc hop
  obtain ⟨hsize, -⟩ := wellFormed_memSize s.cfg hc
  have hload := load_outOfRange s op hop hsize
  have hadc := adc_outOfRange s op hop hsize
  exact ⟨fun w h => hload (.abs w) h .a, fun w h => hload (.absx w) h .a, fun w h => hload (.absy w) h .a,
    fun b h => hload (.indx b) h .a, fun b h => hload (.indy b) h .a,
    fun w h => hload (.abs w) h .x, fun w h => hload (.absy w) h .x,
    fun w h => hload (.abs w) h .y, fun w h => hload (.absx w) h .y,
    fun w => hadc (.abs w), fun w => hadc (.absx w), fun w => hadc (.absy w), fun b => hadc (.indx b), fun b => hadc (.indy b)⟩

/-- Settles O22: each form is a store through one mode, whose address is out of range. -/
theorem outOfRangeWritesFault : Obligations.OutOfRangeWritesFault := by
  intro s op hc hop
  obtain ⟨hsize, -⟩ := wellFormed_memSize s.cfg hc
  have hstore := store_outOfRange s op hop hsize
  exact ⟨fun w h => hstore (.abs w) h .a, fun w h => hstore (.absx w) h .a, fun w h => hstore (.absy w) h .a,
    fun b h => hstore (.indx b) h .a, fun b h => hstore (.indy b) h .a, fun w h => hstore (.abs w) h .x,
    fun w h => hstore (.abs w) h .y⟩

/-- Settles O42: by the cases of an instruction; a fault writes no cell, and a completed store one. -/
theorem storesAloneWriteMemory : Obligations.StoresAloneWriteMemory := by
  intro s t hm
  refine ⟨fun i hf h => ?_, fun i m b w h hi ea hea addr hne => ?_⟩
  · obtain hc | ⟨ea, k, -, rfl⟩ := exec_next_cases i s t h
    · exact hc.mem_of_not_store (familyOf_eq i ▸ hf)
    · rfl
  · obtain ⟨r, hr⟩ : ∃ r, meaningOf i = .store r m := by
      fin_cases hi <;> exact ⟨_, rfl⟩
    obtain hc | ⟨ea, k, -, rfl⟩ := exec_next_cases i s t h
    · exact (hr ▸ hc).read_of_store hm ea hea addr hne
    · rfl

/-- Settles O48, by read after write. -/
theorem memoryReadsTheLastWrite : Obligations.MemoryReadsTheLastWrite := by
  intro s addr v hm
  refine ⟨fun hlt => ⟨_, memWrite_ok s addr v hlt, Memory.write_wf s.mem addr v hm, ?_, fun other hne => ?_⟩,
    fun hle => ⟨memRead_error s addr hle, memWrite_error s addr v hle⟩⟩
  · have hread := memRead_ok { s with mem := s.mem.write addr v } addr hlt
    rwa [Memory.read_write s.mem addr v addr hm, if_pos rfl] at hread
  · simp only [State.memRead, Memory.read_write s.mem addr v other hm, if_neg hne]

/-- Settles O49: the two Memories list the same cells, and each lists them in rising order. -/
theorem equalReadsMakeEqualMemories : Obligations.EqualReadsMakeEqualMemories := by
  intro m n hm hn hread
  have hirrefl : Std.Irrefl (fun c d : Host.Cell => c.1 < d.1) := ⟨fun c => Nat.lt_irrefl c.1⟩
  have hasymm : Std.Antisymm (fun c d : Host.Cell => c.1 < d.1) := ⟨fun c d hcd hdc => absurd hcd (Nat.lt_asymm hdc)⟩
  refine ((Memory.wf_iff m).1 hm).1.eq_of_mem_iff ((Memory.wf_iff n).1 hn).1 fun ⟨a, v⟩ => ?_
  rw [Memory.mem_iff_read m hm, Memory.mem_iff_read n hn, hread]

/-- Settles O51: the three answers of a launch by its three checks. -/
theorem sharedMemoryLaunchesAreRefused : Obligations.SharedMemoryLaunchesAreRefused := by
  intro cfg cpus
  refine ⟨launch_badConfiguration cfg cpus, fun i j h m n hc hij hi hj => ?_, fun hc hdup hmem => ?_⟩
  · exact launch_sharedMemory cfg cpus hc (not_nodup_of_same_handle cpus i j h m n hij hi hj)
  · refine ⟨launch_ok cfg cpus hc hdup hmem, fun c hcpu => ?_⟩
    obtain ⟨hwf, hcells⟩ := hmem c hcpu
    exact construct_good cfg c.2 hc hwf hcells

/-- Settles O53: a write that succeeds is of a cell that exists, a call that succeeds finds no Run and no fault mark. -/
theorem hostActsKeepGood : Obligations.HostActsKeepGood := by
  rintro s t hs (⟨addr, v, h⟩ | ⟨code, h⟩)
  · obtain ⟨-, ha, rfl⟩ := hostWrite_cases s t addr v h
    exact hs.writeCell addr v ha
  · obtain ⟨⟨hp, -⟩, hf, rfl⟩ := hostRun_cases s t code h
    exact hs.callRun hp hf code

/-- Settles O47: the resolver gives both forms one address, and a read and a store go by that address alone. -/
theorem eightAndSixteenBitIndicesAlias : Obligations.EightAndSixteenBitIndicesAlias := by
  intro s b v
  refine ⟨?_, ?_, fun w => rfl⟩
  · simp only [State.operandValue, State.resolve, effectiveAddress_zp]
  · simp only [State.storeTo, effectiveAddress_zp]

/-- Settles O50, by the one guard of the host's acts. -/
theorem hostTouchesMemoryBetweenRunsOnly : Obligations.HostTouchesMemoryBetweenRunsOnly := by
  intro s addr v code
  refine ⟨fun hrun => ?_, fun hp hq ha => ?_⟩
  · have hno := (hostMayAct_eq_false_iff s).2 hrun
    simp [hostRead, hostWrite, hostRun, hno]
  · have hmay := (hostMayAct_iff s).2 ⟨hp, hq⟩
    simp [hostRead, hostWrite, hmay, ha]

end Sys2Proof.Machine
end

section
/-! What the configuration makes of an opcode byte, and what the decoder reads there (spec/30_encoding.md R82 to R86). -/

namespace Sys2Proof

/-! ### The opcode table -/

/-- R84: every byte of the list has a row of the map. -/
theorem tableForm_of_mem (op : Byte) (h : op ∈ tableOpcodes) : ∃ f, tableForm op = some f := by
  have hrows : tableOpcodes.all (fun b => (tableForm b).isSome) = true := by decide
  exact Option.isSome_iff_exists.1 (List.all_eq_true.1 hrows op h)

/-- R84: every row of the map is of a byte of the list. -/
theorem mem_of_tableForm (op : Byte) (f : Form) (h : tableForm op = some f) : op ∈ tableOpcodes := by
  unfold tableForm at h
  split at h
  on_goal 46 => cases h
  all_goals decide

/-! ### The four cases of `recognise` (R85) -/

section
variable (cfg : Config) (op : Byte)

theorem recognise_of_mem (h : op ∈ cfg.opcodeSet) : recognise cfg op = tableForm op := if_pos h

theorem recognise_diagZp (h : op ∉ cfg.opcodeSet) (hz : cfg.diagZpOpcode = some op) :
    recognise cfg op = some (.f2 .diagzp) := by
  rw [recognise, if_neg h, if_pos hz]

theorem recognise_diagA (h : op ∉ cfg.opcodeSet) (hz : cfg.diagZpOpcode ≠ some op) (ha : cfg.diagAOpcode = some op) :
    recognise cfg op = some (.f1 .diaga) := by
  rw [recognise, if_neg h, if_neg hz, if_pos ha]

theorem recognise_none (h : op ∉ cfg.opcodeSet) (hz : cfg.diagZpOpcode ≠ some op) (ha : cfg.diagAOpcode ≠ some op) :
    recognise cfg op = none := by
  rw [recognise, if_neg h, if_neg hz, if_neg ha]

end

/-- D15: the default configuration recognises the opcode table and no diagnostic opcode. -/
theorem recognise_default (op : Byte) : recognise Config.default op = tableForm op := by
  by_cases h : op ∈ tableOpcodes
  · exact recognise_of_mem _ _ h
  · rw [recognise_none _ _ h (Option.some_ne_none op).symm (Option.some_ne_none op).symm]
    exact (Option.eq_none_iff_forall_ne_some.2 fun f hf => h (mem_of_tableForm op f hf)).symm

theorem isSome_recognise_default (op : Byte) : (recognise Config.default op).isSome = decide (op ∈ tableOpcodes) := by
  rw [recognise_default, Bool.eq_iff_iff, decide_eq_true_iff, Option.isSome_iff_exists]
  exact ⟨fun ⟨f, hf⟩ => mem_of_tableForm op f hf, tableForm_of_mem op⟩

/-- R84: counted through the byte values, the default configuration recognises each byte of the list once. -/
theorem recognised_perm :
    ((List.range 256).filter (fun n => (recognise Config.default (BitVec.ofNat 8 n)).isSome)).Perm
      (tableOpcodes.map BitVec.toNat) := by
  have hnodup : tableOpcodes.Nodup := by decide
  refine (List.perm_ext_iff_of_nodup (List.nodup_range.filter _) (hnodup.map BitVec.toNat_injective)).2 fun n => ?_
  simp only [List.mem_filter, List.mem_range, List.mem_map, isSome_recognise_default, decide_eq_true_iff]
  constructor
  · rintro ⟨hn, h⟩
    exact ⟨_, h, (BitVec.toNat_ofNat n 8).trans (Nat.mod_eq_of_lt hn)⟩
  · rintro ⟨b, h, rfl⟩
    exact ⟨b.isLt, by rwa [BitVec.ofNat_toNat, BitVec.setWidth_eq]⟩

theorem recognised_length :
    ((List.range 256).filter (fun n => (recognise Config.default (BitVec.ofNat 8 n)).isSome)).length = 45 :=
  recognised_perm.length_eq.trans rfl

theorem length_filter_isNone {α β : Type} (f : α → Option β) (l : List α) (m n : Nat) (hall : l.length = m + n)
    (hsome : (l.filter (fun x => (f x).isSome)).length = m) : (l.filter (fun x => (f x).isNone)).length = n := by
  have hsplit := l.length_eq_length_filter_add fun x => (f x).isSome
  simp only [Option.not_isSome] at hsplit
  omega

/-- 30_encoding.md section 4: the rest of the 256 byte values. -/
theorem unrecognised_length :
    ((List.range 256).filter (fun n => (recognise Config.default (BitVec.ofNat 8 n)).isNone)).length = 211 :=
  length_filter_isNone (fun n => recognise Config.default (BitVec.ofNat 8 n)) _ 45 211 List.length_range recognised_length

/-! ### The decoder at an opcode byte -/

/-- R82, R106: what follows an unrecognised byte does not matter. -/
theorem decode_unrecognised (cfg : Config) (op : Byte) (r : List Byte) (h : recognise cfg op = none) :
    decode cfg (op :: r) = .unrecognised op := by
  simp [decode, h]

/-- R82: with its operand bytes there, a recognised opcode byte decodes to an instruction of exactly those bytes. -/
theorem decode_recognised (cfg : Config) (op : Byte) (r : List Byte) (f : Form) (h : recognise cfg op = some f)
    (hlen : f.operandBytes ≤ r.length) :
    ∃ i, decode cfg (op :: r) = .instr i (r.drop f.operandBytes) ∧ i.operands.length = f.operandBytes := by
  obtain ⟨i, hi⟩ := f.read_of_le op r hlen
  have hall := (recognise_operandsFit cfg op f h).read_length op r _ i hi
  rw [List.length_drop] at hall
  exact ⟨i, (decode_cons cfg op r f h).trans hi, by omega⟩

theorem decode_default (op : Byte) (r : List Byte) (f : Form) (h : tableForm op = some f) :
    decode Config.default (op :: r) = f.read op r :=
  decode_cons _ op r f ((recognise_default op).trans h)

/-! ### The admitted configurations -/

/-- 00_scope.md R5, R85: the checks of an admitted configuration, one by one. -/
theorem wellFormed_iff (cfg : Config) : cfg.wellFormed = true ↔
    256 ≤ cfg.memSize ∧ cfg.memSize ≤ 65536 ∧ cfg.opcodeSet.Sublist tableOpcodes ∧
    (∀ op ∈ cfg.opcodeSet, cfg.diagZpOpcode ≠ some op) ∧ (∀ op ∈ cfg.opcodeSet, cfg.diagAOpcode ≠ some op) ∧
    (cfg.diagZpOpcode = none ∨ cfg.diagZpOpcode ≠ cfg.diagAOpcode) := by
  simp only [Config.wellFormed, Bool.and_eq_true, Bool.or_eq_true, decide_eq_true_eq, List.all_eq_true,
    List.isSublist_iff_sublist, and_assoc]

end Sys2Proof

namespace Sys2Proof.Machine

/-! ### A step of a Run at an opcode byte -/

theorem fetch_eq_decode (s : State) (bytes : List Byte) (h : s.code.drop s.cursor = bytes) :
    s.fetch = decode s.cfg bytes := by
  rw [State.fetch, h]

/-- 40_dispatch.md R106. -/
theorem stepRun_unrecognised (s : State) (op : Byte) (h : s.fetch = .unrecognised op) : stepRun s = .next s.skipByte := by
  simp [stepRun, h]

/-- 40_dispatch.md R107. -/
theorem stepRun_instr (s : State) (i : Instr) (rest : List Byte) (h : s.fetch = .instr i rest) : stepRun s = exec i s := by
  simp [stepRun, h]

/-- 10_state.md R27: the Run goes on only past the whole instruction. -/
theorem exec_cursor (i : Instr) (s t : State) (h : exec i s = .next t) (hp : t.phase = .running) :
    t.cursor = s.cursor + 1 + i.operands.length := by
  obtain hc | ⟨ea, k, -, rfl⟩ := exec_next_cases i s t h
  · exact operands_length i ▸ hc.cursor
  · cases hp

end Sys2Proof.Machine
end

section
/-! The statements on the encoding. -/

namespace Sys2Proof.Machine

/-- Settles O4: the form found for the opcode byte fixes the operand bytes, and a step passes those of the instruction it decodes. -/
theorem lengthIsFixedByTheOpcode : Obligations.LengthIsFixedByTheOpcode := by
  refine ⟨fun cfg op r => ⟨decode_unrecognised cfg op r, decode_recognised cfg op r⟩, ?_⟩
  intro s t op r hp hcode h
  obtain ⟨-, ⟨-, hrun⟩ | ⟨hn, -⟩⟩ := step_cases s t h
  · have hfetch := fetch_eq_decode s _ hcode
    refine ⟨fun hop => ?_, fun f hop hlen hgoes => ?_⟩
    · rw [stepRun_unrecognised s op (hfetch.trans (decode_unrecognised _ op r hop))] at hrun
      cases hrun
      rfl
    · obtain ⟨i, hi, hops⟩ := decode_recognised _ op r f hop hlen
      rw [stepRun_instr s i _ (hfetch.trans hi)] at hrun
      exact hops ▸ exec_cursor i s t hrun hgoes
  · exact absurd hp hn

/-- Settles O6, by the four cases of `recognise` and the checks of an admitted configuration. -/
theorem configurationDrivesTheDecoder : Obligations.ConfigurationDrivesTheDecoder := by
  refine ⟨fun cfg op b r hout => ⟨fun hz => ?_, fun hz ha => ?_, fun hz ha => ?_⟩, fun cfg op r hset htable => ?_,
    fun s op hbad => step_badConfiguration s (Bool.eq_false_iff.2 fun hc => ?_)⟩
  · exact decode_cons _ _ _ _ (recognise_diagZp cfg op hout hz)
  · exact decode_cons _ _ _ _ (recognise_diagA cfg op hout hz ha)
  · exact decode_unrecognised _ _ _ (recognise_none cfg op hout hz ha)
  · obtain ⟨f, hf⟩ := tableForm_of_mem op htable
    exact ⟨f, hf, decode_cons _ _ _ _ ((recognise_of_mem cfg op hset).trans hf)⟩
  · obtain ⟨hlow, hhigh, hsub, hzp, ha, hdiffer⟩ := (wellFormed_iff s.cfg).1 hc
    obtain ⟨hset, hz | ha' | hout⟩ | ⟨hz, ha'⟩ | hsize | hsize := hbad
    · exact hzp op hset hz
    · exact ha op hset ha'
    · exact hout (hsub.subset hset)
    · simp [hz, ha'] at hdiffer
    · omega
    · omega

/-- Settles O1: each word by its row of the opcode map, and 0x02 by having none. -/
theorem specEncodingsDecode : Obligations.SpecEncodingsDecode := by
  and_intros
  iterate 14 · exact (decode_default _ _ _ rfl).trans rfl
  · exact decode_unrecognised _ _ _ (recognise_default _)

/-- Settles O5: the default configuration recognises what the opcode map has a row for, and each row is read off the map. -/
theorem defaultMapHasFortyFiveOpcodes : Obligations.DefaultMapHasFortyFiveOpcodes := by
  refine ⟨by decide, fun op => by rw [isSome_recognise_default, decide_eq_true_iff], recognised_length, unrecognised_length,
    fun b lo hi r => ?_⟩
  and_intros
  all_goals exact (decode_default _ _ _ rfl).trans rfl

end Sys2Proof.Machine
end

section
/-! One step by what holds before it, and runs of steps (spec/40_dispatch.md R102 to R107). -/

namespace Sys2Proof.Machine

/-! ### A step between Runs -/

section
variable (s : State) (hc : s.cfg.wellFormed = true) (hp : s.phase ≠ .running)
include hc hp

/-- R102. -/
theorem step_starts (c : List Byte) (hf : s.fault = none) (hq : s.runCall = some c) : step s = .next (s.startRun c) := by
  rw [step_between s hc hp, State.betweenRuns, hf, hq]

/-- 60_exceptions.md R242. -/
theorem step_refuses (r : FaultRecord) (c : List Byte) (hf : s.fault = some r) (hq : s.runCall = some c) :
    step s = .refused .runAfterFault := by
  rw [step_between s hc hp, State.betweenRuns, hf, hq]

theorem step_waits (hf : s.fault = none) (hq : s.runCall = none) : step s = .next s := by
  rw [step_between s hc hp, State.betweenRuns, hf, hq]

theorem step_stops (r : FaultRecord) (hf : s.fault = some r) (hq : s.runCall = none) : step s = .fault (.runFaulted r) := by
  rw [step_between s hc hp, State.betweenRuns, hf, hq]

end

/-! ### The host's call of a Run -/

/-- R102: the host's call on a Cpu that is not faulted, when it may act. -/
theorem hostRun_ok (s : State) (code : List Byte) (hmay : s.hostMayAct = true) (hf : s.fault = none) :
    hostRun s code = .ok (s.callRun code) := by
  rw [hostRun, if_pos hmay, hf]

/-- 60_exceptions.md R242: the host's call on a faulted Cpu, when it may act. -/
theorem hostRun_afterFault (s : State) (code : List Byte) (hmay : s.hostMayAct = true) (r : FaultRecord)
    (hf : s.fault = some r) : hostRun s code = .error .runAfterFault := by
  rw [hostRun, if_pos hmay, hf]

/-! ### A step of a Run -/

section
variable (s : State) (hc : s.cfg.wellFormed = true) (hp : s.phase = .running)
include hc hp

/-- R103. -/
theorem step_finishes (h : s.code.length ≤ s.cursor) : step s = .next s.finishRun := by
  rw [step_running s hc hp, stepRun, (fetch_eq_endOfCode_iff s).2 h]

/-- R107. -/
theorem step_truncated (op : Byte) (h : s.fetch = .truncated op) : step s = .next (s.takeFault .truncatedInstruction) := by
  rw [step_running s hc hp, stepRun, h]

/-- A Run never stops but by its end or a fault, and both are next states. -/
theorem step_running_next : ∃ t, step s = .next t := by
  rw [step_running s hc hp, stepRun]
  cases s.fetch with
  | instr i rest =>
    obtain ⟨t, ht, -⟩ := exec_cases i s
    exact ⟨t, ht⟩
  | unrecognised op | truncated op | endOfCode => exact ⟨_, rfl⟩

end

/-! ### Runs of steps -/

theorem reaches_trans {j k : Nat} {s t u : State} (h : reaches j s t) (h' : reaches k t u) : reaches (j + k) s u := by
  induction j generalizing s with
  | zero => obtain rfl := h; rwa [Nat.zero_add]
  | succ j ih =>
    obtain ⟨v, hstep, hv⟩ := h
    rw [Nat.succ_add]
    exact ⟨v, hstep, ih hv⟩

/-- With no Run and no call the core goes nowhere. -/
theorem eq_of_reaches_between {k : Nat} {s t : State} (hp : s.phase ≠ .running) (hq : s.runCall = none)
    (h : reaches k s t) : t = s := by
  induction k with
  | zero => exact h.symm
  | succ k ih =>
    obtain ⟨u, hstep, hu⟩ := h
    obtain ⟨-, ⟨hr, -⟩ | ⟨-, hb⟩⟩ := step_cases s u hstep
    · exact absurd hr hp
    · obtain ⟨-, ⟨-, rfl⟩ | ⟨c, hcall, -⟩⟩ := betweenRuns_cases s u hb
      · exact ih hu
      · simp [hq] at hcall

/-- R102: a call that no longer waits has started its Run. -/
theorem reaches_startRun {j : Nat} {s t : State} {c : List Byte} (hp : s.phase ≠ .running) (hf : s.fault = none)
    (h : reaches j (s.callRun c) t) (hq : t.runCall = none) : ∃ i, reaches i (s.startRun c) t := by
  cases j with
  | zero => obtain rfl := h; cases hq
  | succ i =>
    obtain ⟨u, hstep, hu⟩ := h
    obtain ⟨hc, -⟩ := step_cases _ u hstep
    cases (step_starts (s.callRun c) hc hp c hf rfl).symm.trans hstep
    exact ⟨i, hu⟩

end Sys2Proof.Machine
end

section
/-! The statements on one step of the core and on the end of a Run. -/

namespace Sys2Proof.Machine

/-- Settles O33, by induction on the code bytes from the cursor on: a step of a Run ends it or passes at least one of them. -/
theorem everyRunEnds : Obligations.EveryRunEnds := by
  intro s hc hp
  induction hn : s.code.length - s.cursor using Nat.strong_induction_on generalizing s with
  | _ n ih =>
    obtain ⟨t, hstep⟩ := step_running_next s hc hp
    have hrun : stepRun s = .next t := (step_running s hc hp).symm.trans hstep
    obtain ⟨-, rfl⟩ | ⟨-, k, rfl⟩ | ⟨hsame, hlt, -, hle, -⟩ := stepRun_outcomes s t hrun
    · exact ⟨1, _, by omega, ⟨_, hstep, rfl⟩, .inl rfl⟩
    · exact ⟨1, _, by omega, ⟨_, hstep, rfl⟩, .inr rfl⟩
    · have hlen : t.code.length = s.code.length := congrArg List.length hsame.code
      obtain ⟨k, u, hk, hu, hend⟩ := ih _ (by omega) t (hsame.cfg ▸ hc) (hsame.phase.trans hp) rfl
      exact ⟨k + 1, u, by omega, ⟨t, hstep, hu⟩, hend⟩

/-- Settles O23: a form without its operand bytes reads as truncated. -/
theorem truncatedInstructionsFault : Obligations.TruncatedInstructionsFault := by
  intro s op r f hc hp hcode hop hlen
  have hfetch : s.fetch = .truncated op :=
    (fetch_eq_decode s _ hcode).trans ((decode_cons _ op r f hop).trans (f.read_of_lt op r hlen))
  have hbyte : s.code[s.cursor]? = some op := by rw [← List.head?_drop, hcode]; rfl
  rw [step_truncated s hc hp op hfetch, takeFault_eq_faultedFrom s op hbyte]

/-- Settles O30: the Run starts at its end. -/
theorem emptyRunOnlyDumps : Obligations.EmptyRunOnlyDumps := by
  intro s hc hp hf hq
  have hstart := step_starts s hc hp [] hf hq
  have hfinish := step_finishes (s.startRun []) hc rfl (Nat.le_refl 0)
  exact ⟨_, ⟨_, hstart, _, hfinish, rfl⟩, rfl, rfl, fun q => by cases q <;> rfl, rfl, rfl, rfl, hf, rfl, rfl⟩

/-- Settles O27: of a step of a Run only the branch of a decoded instruction is left. -/
theorem stepRunsTheDecodedInstruction : Obligations.StepRunsTheDecodedInstruction := by
  intro s i rest hc hp hdecode
  exact (step_running s hc hp).trans (stepRun_instr s i rest hdecode)

/-- Settles O28: what follows the byte does not matter. -/
theorem unrecognisedBytesAreSkipped : Obligations.UnrecognisedBytesAreSkipped := by
  intro s op r hc hp hcode hop
  have hfetch := (fetch_eq_decode s _ hcode).trans (decode_unrecognised _ op r hop)
  exact (step_running s hc hp).trans (stepRun_unrecognised s op hfetch)

/-- Settles O29: the decoder is at the end of code. -/
theorem runEndsWithTheTrailingDump : Obligations.RunEndsWithTheTrailingDump :=
  step_finishes

/-- Settles O31, by the fault mark and the call. -/
theorem betweenRunsTheCoreStartsWaitsOrStops : Obligations.BetweenRunsTheCoreStartsWaitsOrStops := by
  intro s hc hp
  exact ⟨step_starts s hc hp, step_refuses s hc hp, step_waits s hc hp, step_stops s hc hp⟩

/-- Settles O52: between Runs the host may act. -/
theorem hostRunIsOneCallBetweenRuns : Obligations.HostRunIsOneCallBetweenRuns := by
  intro s code hp hq
  have hmay := (hostMayAct_iff s).2 ⟨hp, hq⟩
  exact ⟨hostRun_ok s code hmay, hostRun_afterFault s code hmay⟩

end Sys2Proof.Machine
end

section
/-! Two states alike in all that an instruction reads, wherever their Runs stand: they step alike (spec/40_dispatch.md R108). -/

namespace Sys2Proof.Machine

/-- Two states alike in what the meaning of an instruction reads: configuration, registers, the bits of P but 2 to 5, Memory. -/
structure SameData (s u : State) : Prop where
  cfg : u.cfg = s.cfg
  registers : ∀ q, u.reg q = s.reg q
  flags : ∀ k, k ∉ [2, 3, 4, 5] → u.regP.getLsbD k = s.regP.getLsbD k
  mem : u.mem = s.mem

/-- A Run that goes on: the cursor passes `n` bytes, the trace takes `e`. -/
structure Progress (n : Nat) (e : List Byte) (s t : State) : Prop where
  run : SameRun s t
  cursor : t.cursor = s.cursor + n
  out : t.out = s.out ++ e

/-- The states `t` and `t'` that one step leads `s` and `u` to, where both steps are of one kind and with one effect. -/
inductive StepsAlike (s u : State) : State → State → Prop
  | ends : StepsAlike s u s.finishRun u.finishRun
  | faults (k : FaultKind) : StepsAlike s u (s.takeFault k) (u.takeFault k)
  | goesOn {t t' : State} (n : Nat) (e : List Byte) (first : Progress n e s t) (second : Progress n e u t')
      (data : SameData t t') : StepsAlike s u t t'

/-! ### The effects of a step that goes on -/

theorem loaded_progress (s : State) (r : Reg) (v : Byte) (n : Nat) : Progress (n + 1) [] s (s.loaded r v n) :=
  ⟨loaded_sameRun s r v n, loaded_cursor s r v n, by simp⟩

theorem add_progress (s : State) (v : Byte) (n : Nat) : Progress (n + 1) [] s ((s.add v).advance n) :=
  ⟨⟨rfl, rfl, rfl, rfl, rfl, rfl⟩, rfl, (List.append_nil _).symm⟩

theorem stored_progress (s : State) (m : Memory) (n : Nat) : Progress (n + 1) [] s ({ s with mem := m }.advance n) :=
  ⟨⟨rfl, rfl, rfl, rfl, rfl, rfl⟩, rfl, (List.append_nil _).symm⟩

theorem emit_progress (s : State) (v : Byte) (n : Nat) : Progress (n + 1) [v] s ((s.emit v).advance n) :=
  ⟨⟨rfl, rfl, rfl, rfl, rfl, rfl⟩, rfl, rfl⟩

theorem skipByte_progress (s : State) : Progress 1 [] s s.skipByte :=
  ⟨⟨rfl, rfl, rfl, rfl, rfl, rfl⟩, rfl, (List.append_nil _).symm⟩

namespace SameData

variable {s u : State} (h : SameData s u)
include h

theorem sameOperands : SameOperands s u := ⟨h.cfg, h.mem, h.registers .x, h.registers .y⟩

theorem loaded (r : Reg) (v : Byte) (n : Nat) : StepsAlike s u (s.loaded r v n) (u.loaded r v n) :=
  .goesOn _ _ (loaded_progress s r v n) (loaded_progress u r v n) {
    cfg := by rw [(loaded_sameRun u r v n).cfg, (loaded_sameRun s r v n).cfg, h.cfg]
    registers := fun q => by simp only [loaded_reg, h.registers q]
    flags := fun k hk => by simp only [loaded_regP, getLsbD_setZN, h.flags k hk]
    mem := by simp only [loaded_mem, h.mem] }

/-- 45_adc.md R200: of P the sum reads the carry alone. -/
theorem add (v : Byte) (n : Nat) : StepsAlike s u ((s.add v).advance n) ((u.add v).advance n) := by
  have hA : u.regA = s.regA := h.registers .a
  have hsum : adcSum u.regP s.regA v = adcSum s.regP s.regA v := adcSum_congr _ _ _ v (h.flags 0 (by decide))
  exact .goesOn _ _ (add_progress s v n) (add_progress u v n) {
    cfg := h.cfg
    registers := fun q => by simp only [advance_reg, add_reg, adcResult, hA, hsum, h.registers q]
    flags := fun k hk => by simp only [advance_regP, add_regP, getLsbD_adcFlags, adcResult, hA, hsum, h.flags k hk]
    mem := h.mem }

theorem stored (ea : Nat) (v : Byte) (n : Nat) :
    StepsAlike s u ({ s with mem := s.mem.write ea v }.advance n) ({ u with mem := u.mem.write ea v }.advance n) :=
  .goesOn _ _ (stored_progress s _ n) (stored_progress u _ n) {
    cfg := h.cfg
    registers := fun
      | .a => h.registers .a
      | .x => h.registers .x
      | .y => h.registers .y
      | .s => h.registers .s
    flags := h.flags
    mem := congrArg (Memory.write · ea v) h.mem }

theorem emit (v : Byte) (n : Nat) : StepsAlike s u ((s.emit v).advance n) ((u.emit v).advance n) :=
  .goesOn _ _ (emit_progress s v n) (emit_progress u v n)
    ⟨h.cfg, fun q => by simpa using h.registers q, h.flags, h.mem⟩

theorem skipByte : StepsAlike s u s.skipByte u.skipByte :=
  .goesOn _ _ (skipByte_progress s) (skipByte_progress u) ⟨h.cfg, h.registers, h.flags, h.mem⟩

/-! ### Each meaning -/

/-- 40_dispatch.md R108, of each shared operation: one access, answered alike, and one effect. -/
theorem run_alike (m : Meaning) (t : State) (hrun : m.run s = .next t) : ∃ t', m.run u = .next t' ∧ StepsAlike s u t t' := by
  have same := h.sameOperands
  cases m with
  | load r o =>
    simp only [Meaning.run, load_eq, same.operandValue] at hrun ⊢
    exact complete_related .faults _ _ _ hrun fun v => h.loaded r v _
  | store r m =>
    simp only [Meaning.run, store_eq, same.writeAddress, h.registers] at hrun ⊢
    exact complete_related .faults _ _ _ hrun fun ea => h.stored ea (s.reg r) _
  | transfer src dst =>
    cases hrun
    exact ⟨_, rfl, by rw [h.registers src]; exact h.loaded dst (s.reg src) 0⟩
  | adc o =>
    simp only [Meaning.run, adc_eq, same.operandValue] at hrun ⊢
    exact complete_related .faults _ _ _ hrun fun v => h.add v _
  | emitCell b =>
    simp only [Meaning.run, emitCell_eq, same.operandValue] at hrun ⊢
    exact complete_related .faults _ _ _ hrun fun v => h.emit v 1
  | emitA =>
    have hA : u.regA = s.regA := h.registers .a
    cases hrun
    exact ⟨_, rfl, by rw [hA]; exact h.emit s.regA 0⟩

end SameData

end Sys2Proof.Machine

namespace Sys2Proof

/-- What the decoder reads where more bytes follow: an instruction's rest is longer, and nothing else differs. -/
def Decoded.followedBy (d : Decoded) (suf : List Byte) : Decoded :=
  match d with
  | .instr i rest => .instr i (rest ++ suf)
  | .unrecognised op => .unrecognised op
  | .truncated op => .truncated op
  | .endOfCode => .endOfCode

@[simp] theorem Decoded.followedBy_nil (d : Decoded) : d.followedBy [] = d := by
  cases d <;> simp [followedBy]

theorem Form.read_append (f : Form) (op : Byte) (r rest suf : List Byte) (i : Instr) (h : f.read op r = .instr i rest) :
    f.read op (r ++ suf) = .instr i (rest ++ suf) := by
  unfold Form.read at h
  split at h <;> cases h <;> rfl

/-- 30_encoding.md R82: an instruction is decoded from its own bytes, whatever follows them. -/
theorem decode_append_instr (cfg : Config) (bytes rest suf : List Byte) (i : Instr) (h : decode cfg bytes = .instr i rest) :
    decode cfg (bytes ++ suf) = .instr i (rest ++ suf) := by
  unfold decode at h
  split at h
  · cases h
  · next op r =>
    split at h
    · cases h
    · next f hf => exact (decode_cons cfg op _ f hf).trans (f.read_append op r rest suf i h)

/-- 40_dispatch.md R106: the same of an unrecognised byte. -/
theorem decode_append_unrecognised (cfg : Config) (bytes suf : List Byte) (op : Byte)
    (h : decode cfg bytes = .unrecognised op) : decode cfg (bytes ++ suf) = .unrecognised op := by
  cases bytes with
  | nil => cases h
  | cons b r =>
    cases hb : recognise cfg b with
    | none =>
      rw [decode_unrecognised cfg b r hb] at h
      cases h
      exact decode_unrecognised cfg op _ hb
    | some f =>
      rw [decode_cons cfg b r f hb] at h
      unfold Form.read at h
      split at h <;> cases h

end Sys2Proof

namespace Sys2Proof.Machine

/-- 40_dispatch.md R104 to R108: two Runs that fetch the same, up to what follows, on the same data. -/
theorem SameData.step_alike {s u : State} (h : SameData s u) (hs : s.phase = .running) (hu : u.phase = .running)
    (suf : List Byte) (hfetch : u.fetch = s.fetch.followedBy suf) (t : State) (hstep : step s = .next t) :
    ∃ t', step u = .next t' ∧ StepsAlike s u t t' := by
  obtain ⟨hc, ⟨-, hrun⟩ | ⟨hn, -⟩⟩ := step_cases s t hstep
  · rw [step_running u (h.cfg ▸ hc) hu, stepRun, hfetch]
    obtain ⟨hf, rfl⟩ | ⟨op, hf, rfl⟩ | ⟨op, hf, rfl⟩ | ⟨i, rest, hf, he⟩ := stepRun_cases s t hrun <;> rw [hf]
    · exact ⟨_, rfl, .ends⟩
    · exact ⟨_, rfl, h.skipByte⟩
    · exact ⟨_, rfl, .faults _⟩
    · rw [exec_eq_run] at he
      obtain ⟨t', ht', halike⟩ := h.run_alike _ t he
      exact ⟨t', (exec_eq_run i u).trans ht', halike⟩
  · exact absurd hs hn

/-! ### What two like steps have in common -/

@[simp] theorem finishRun_reg (s : State) (q : Reg) : s.finishRun.reg q = s.reg q := by cases q <;> rfl

namespace StepsAlike

variable {s u t t' : State} (h : StepsAlike s u t t')
include h

theorem data (hd : SameData s u) : SameData t t' := by
  cases h with
  | ends => exact ⟨hd.cfg, fun q => by simpa using hd.registers q, hd.flags, hd.mem⟩
  | faults k => exact ⟨hd.cfg, fun q => by simpa using hd.registers q, hd.flags, hd.mem⟩
  | goesOn n e first second data => exact data

theorem phase (hp : u.phase = s.phase) : t'.phase = t.phase := by
  cases h with
  | ends | faults k => rfl
  | goesOn n e first second data => rw [first.run.phase, second.run.phase, hp]

theorem code : t.code = s.code ∧ t'.code = u.code := by
  cases h with
  | ends | faults k => exact ⟨rfl, rfl⟩
  | goesOn n e first second data => exact ⟨first.run.code, second.run.code⟩

theorem runCall : t.runCall = s.runCall ∧ t'.runCall = u.runCall := by
  cases h with
  | ends | faults k => exact ⟨rfl, rfl⟩
  | goesOn n e first second data => exact ⟨first.run.runCall, second.run.runCall⟩

theorem cursor : ∃ n, t.cursor = s.cursor + n ∧ t'.cursor = u.cursor + n := by
  cases h with
  | ends | faults k => exact ⟨0, rfl, rfl⟩
  | goesOn n e first second data => exact ⟨n, first.cursor, second.cursor⟩

/-- The end of the Run emits A, a fault nothing. -/
theorem out (hA : u.regA = s.regA) : ∃ e, t.out = s.out ++ e ∧ t'.out = u.out ++ e := by
  cases h with
  | ends => exact ⟨[s.regA], rfl, by rw [finishRun_out, hA]⟩
  | faults k => exact ⟨[], by simp, by simp⟩
  | goesOn n e first second data => exact ⟨e, first.out, second.out⟩

/-- The fault marks stay, or both steps take one fault. -/
theorem fault : (t.fault = s.fault ∧ t'.fault = u.fault) ∨ ∃ k, t = s.takeFault k ∧ t' = u.takeFault k := by
  cases h with
  | ends => exact .inl ⟨rfl, rfl⟩
  | faults k => exact .inr ⟨k, rfl, rfl⟩
  | goesOn n e first second data => exact .inl ⟨first.run.fault, second.run.fault⟩

theorem takes_fault (hp : s.phase = .running) (hend : t.phase = .faulted) : ∃ k, t = s.takeFault k ∧ t' = u.takeFault k := by
  cases h with
  | ends => cases hend
  | faults k => exact ⟨k, rfl, rfl⟩
  | goesOn n e first second data => simp [first.run.phase, hp] at hend

end StepsAlike

/-- Settles O44: the two states fetch the same, so they step alike. -/
theorem stepDependsOnItsInputsOnly : Obligations.StepDependsOnItsInputsOnly := by
  intro s t s' h hp hstep
  have hdata : SameData s t := ⟨h.cfg, h.registers, h.flags, h.mem⟩
  have hfetch : t.fetch = s.fetch.followedBy [] := by
    rw [Decoded.followedBy_nil, State.fetch, State.fetch, h.cfg, h.code, h.cursor]
  obtain ⟨t', ht', halike⟩ := hdata.step_alike hp (h.phase.trans hp) [] hfetch s' hstep
  obtain ⟨hcfg, hreg, hflags, hmem⟩ := halike.data hdata
  obtain ⟨hcode, hcode'⟩ := halike.code
  obtain ⟨n, hcur, hcur'⟩ := halike.cursor
  obtain ⟨e, hout, hout'⟩ := halike.out (h.registers .a)
  refine ⟨t', e, ht', ⟨hcfg, hreg, hflags, hmem, ?_, ?_, halike.phase h.phase⟩, hout, hout', fun hend => ?_⟩
  · rw [hcode, hcode', h.code]
  · rw [hcur, hcur', h.cursor]
  · obtain ⟨k, rfl, rfl⟩ := halike.takes_fault hp hend
    simp [State.opcodeByte, h.code, h.cursor]

end Sys2Proof.Machine
end

section
/-! A Run as a part of a longer one (spec/40_dispatch.md R112). -/

namespace Sys2Proof.Machine

/-- The state `u` executes the Run of `s` with the bytes `pre` before its code and `suf` after it. The two are alike but in code,
cursor, the cursor of the fault, and the trace: from where they were compared on, `x` and `y` have taken the same bytes. -/
structure Placed (pre suf x y : List Byte) (s u : State) : Prop where
  data : SameData s u
  regP : u.regP = s.regP
  pcField : u.pcField = s.pcField
  phase : u.phase = s.phase
  noCall : s.runCall = none ∧ u.runCall = none
  fault : u.fault = s.fault.map fun r => { r with cursor := pre.length + r.cursor }
  code : u.code = pre ++ (s.code ++ suf)
  cursor : u.cursor = pre.length + s.cursor
  inCode : s.cursor ≤ s.code.length
  out : ∃ e, s.out = x ++ e ∧ u.out = y ++ e

namespace Placed

variable {pre suf x y : List Byte} {s u t : State}

theorem drop_code (h : Placed pre suf x y s u) : u.code.drop u.cursor = s.code.drop s.cursor ++ suf := by
  rw [h.code, h.cursor, List.drop_length_add_append, List.drop_append_of_le_length h.inCode]

/-- Where the step of `s` does not end its Run, what follows its code is not looked at. -/
theorem fetch (h : Placed pre suf x y s u) (hstep : stepRun s = .next t) (hgo : suf = [] ∨ t.phase = .running) :
    u.fetch = s.fetch.followedBy suf := by
  rw [fetch_eq_decode u _ h.drop_code, h.data.cfg]
  obtain rfl | hgo := hgo
  · rw [List.append_nil, Decoded.followedBy_nil, State.fetch]
  · obtain ⟨-, rfl⟩ | ⟨op, hf, -⟩ | ⟨op, -, rfl⟩ | ⟨i, rest, hf, -⟩ := stepRun_cases s t hstep
    · cases hgo
    · rw [hf]; exact decode_append_unrecognised _ _ suf op hf
    · cases hgo
    · rw [hf]; exact decode_append_instr _ _ rest suf i hf

/-- One step of a Run and of the longer one, where that step does not end the Run or no code follows it. -/
theorem step (h : Placed pre suf x y s u) (hp : s.phase = .running) (hstep : Machine.step s = .next t)
    (hgo : suf = [] ∨ t.phase = .running) : ∃ v, Machine.step u = .next v ∧ Placed pre suf x y t v := by
  obtain ⟨hc, -⟩ := step_cases s t hstep
  have hfetch := h.fetch ((step_running s hc hp).symm.trans hstep) hgo
  obtain ⟨v, hv, halike⟩ := h.data.step_alike hp (h.phase.trans hp) suf hfetch t hstep
  have hdata := halike.data h.data
  obtain ⟨hpc, -, hbits⟩ := step_keeps s t hstep
  obtain ⟨hpc', -, hbits'⟩ := step_keeps u v hv
  obtain ⟨hcode, hcode'⟩ := halike.code
  obtain ⟨hcall, hcall'⟩ := halike.runCall
  obtain ⟨n, hcur, hcur'⟩ := halike.cursor
  obtain ⟨e, hout, hout'⟩ := halike.out (h.data.registers .a)
  obtain ⟨e₀, hx, hy⟩ := h.out
  refine ⟨v, hv, {
    data := hdata
    regP := BitVec.eq_of_getLsbD_eq fun k _ => ?_
    pcField := by rw [hpc, hpc', h.pcField]
    phase := halike.phase h.phase
    noCall := ⟨hcall.trans h.noCall.1, hcall'.trans h.noCall.2⟩
    fault := ?_
    code := by rw [hcode, hcode', h.code]
    cursor := by rw [hcur, hcur', h.cursor, Nat.add_assoc]
    inCode := ?_
    out := ⟨e₀ ++ e, by rw [hout, hx, List.append_assoc], by rw [hout', hy, List.append_assoc]⟩ }⟩
  · by_cases hk : 2 ≤ k ∧ k ≤ 5
    · rw [hbits k hk.1 hk.2, hbits' k hk.1 hk.2, h.regP]
    · exact hdata.flags k (by simp only [List.mem_cons, List.not_mem_nil, or_false]; omega)
  · obtain ⟨hs, hu⟩ | ⟨k, rfl, rfl⟩ := halike.fault
    · rw [hs, hu, h.fault]
    · obtain rfl | hgo := hgo
      · have hbyte : u.opcodeByte = s.opcodeByte := by
          simp only [State.opcodeByte, ← List.head?_drop, h.drop_code, List.append_nil]
        simp [hbyte, h.cursor]
      · cases hgo
  · obtain ⟨-, -, ⟨-, -, -, hle⟩ | ⟨-, heq⟩⟩ := cursorMovesForwardThroughARun s t hp hstep
    · exact hcode ▸ hle
    · exact hcode ▸ heq ▸ h.inCode

/-- With no code after its own, a Run goes through to the end as a part of the longer one. -/
theorem reaches {k : Nat} (h : Placed pre [] x y s u) (hk : Machine.reaches k s t) :
    ∃ n v, Machine.reaches n u v ∧ Placed pre [] x y t v := by
  induction k generalizing s u with
  | zero => obtain rfl := hk; exact ⟨0, u, rfl, h⟩
  | succ k ih =>
    by_cases hp : s.phase = .running
    · obtain ⟨s₁, hstep, hs₁⟩ := hk
      obtain ⟨u₁, hu, h₁⟩ := h.step hp hstep (.inl rfl)
      obtain ⟨n, v, hv, hend⟩ := ih h₁ hs₁
      exact ⟨n + 1, v, ⟨u₁, hu, hv⟩, hend⟩
    · obtain rfl := eq_of_reaches_between hp h.noCall.1 hk
      exact ⟨0, u, rfl, h⟩

/-- With code after its own, a Run that completes `Done` goes through up to its end, and there the longer one is at that code. -/
theorem reaches_end {k : Nat} (h : Placed pre suf x y s u) (hp : s.phase = .running) (hk : Machine.reaches k s t)
    (hdone : t.phase = .done) : ∃ n s' u', Machine.reaches n u u' ∧ Placed pre suf x y s' u' ∧ s'.phase = .running ∧
      s'.cursor = s'.code.length ∧ s'.code = s.code ∧ t = s'.finishRun := by
  induction k generalizing s u with
  | zero => obtain rfl := hk; simp [hp] at hdone
  | succ k ih =>
    obtain ⟨s₁, hstep, hs₁⟩ := hk
    obtain ⟨hc, -⟩ := step_cases s s₁ hstep
    have hrun := (step_running s hc hp).symm.trans hstep
    obtain ⟨hend, rfl⟩ | ⟨-, k, rfl⟩ | ⟨hsame, -⟩ := stepRun_outcomes s s₁ hrun
    · obtain rfl := eq_of_reaches_between (by simp) (by simpa using h.noCall.1) hs₁
      exact ⟨0, s, u, rfl, h, hp, Nat.le_antisymm h.inCode hend, rfl, rfl⟩
    · obtain rfl := eq_of_reaches_between (by simp) (by simpa using h.noCall.1) hs₁
      cases hdone
    · have hp₁ : s₁.phase = .running := hsame.phase.trans hp
      obtain ⟨u₁, hu, h₁⟩ := h.step hp hstep (.inr hp₁)
      obtain ⟨n, s', u', hn, h', hrest⟩ := ih h₁ hp₁ hs₁
      exact ⟨n + 1, s', u', ⟨u₁, hu, hn⟩, h', hsame.code ▸ hrest⟩

end Placed

/-- R102: the start of a Run with code after its own. -/
theorem startRun_placed (s : State) (c d : List Byte) (hf : s.fault = none) :
    Placed [] d s.out s.out (s.startRun c) (s.startRun (c ++ d)) where
  data := ⟨rfl, fun q => by cases q <;> rfl, fun _ _ => rfl, rfl⟩
  regP := rfl
  pcField := rfl
  phase := rfl
  noCall := ⟨rfl, rfl⟩
  fault := by simp [hf]
  code := rfl
  cursor := rfl
  inCode := Nat.zero_le _
  out := ⟨[], by simp, by simp⟩

/-- R112: at the end of its code a Run ends with its dump, the longer one goes on as the Run of the code that follows. -/
theorem Placed.next {x y d : List Byte} {s u : State} (h : Placed [] d x y s u) (hp : s.phase = .running)
    (hend : s.cursor = s.code.length) (hf : s.fault = none) :
    Placed s.code [] (s.finishRun).out u.out (s.finishRun.startRun d) u where
  data := ⟨h.data.cfg, fun q => (h.data.registers q).trans (by cases q <;> rfl), h.data.flags, h.data.mem⟩
  regP := h.regP
  pcField := h.pcField
  phase := h.phase.trans hp
  noCall := ⟨rfl, h.noCall.2⟩
  fault := by simp [h.fault, hf]
  code := by simp [h.code]
  cursor := by simp [h.cursor, hend]
  inCode := Nat.zero_le _
  out := ⟨[], by simp, by simp⟩

/-- Settles O34: the concatenated Run follows `Run(c)` to its end without the dump, and from there `Run(d)` to the end. -/
theorem successiveRunsConcatenate : Obligations.SuccessiveRunsConcatenate := by
  intro s s' m m' t c d j k hc hcall hj hdone hmq hcall' hk hended htq
  obtain ⟨⟨hp, hq⟩, hf, rfl⟩ := hostRun_cases s s' c hcall
  obtain ⟨⟨hmp, -⟩, hmf, rfl⟩ := hostRun_cases m m' d hcall'
  obtain ⟨j, hj⟩ := reaches_startRun hp hf hj hmq
  obtain ⟨k, hk⟩ := reaches_startRun hmp hmf hk htq
  obtain ⟨n₁, a, b, hb, hplaced, hap, hend, hcode, rfl⟩ := (startRun_placed s c d hf).reaches_end rfl hj hdone
  obtain ⟨n₂, u, hu, h⟩ := (hplaced.next hap hend hmf).reaches hk
  have hstart : step (s.callRun (c ++ d)) = .next (s.startRun (c ++ d)) := step_starts (s.callRun (c ++ d)) hc hp _ hf rfl
  obtain ⟨e, hae, hbe⟩ := hplaced.out
  obtain ⟨f, htf, huf⟩ := h.out
  refine ⟨n₁ + n₂ + 1, _, u, hostRun_ok s _ ((hostMayAct_iff s).2 ⟨hp, hq⟩) hf,
    ⟨_, hstart, reaches_trans hb hu⟩, h.phase, h.noCall.2, h.data.registers, h.regP, h.pcField, h.data.mem,
    ⟨e, f, ?_, htf, ?_⟩, ?_⟩
  · rw [finishRun_out, finishRun_regA, hae]
  · rw [huf, hbe]
  · rw [h.fault, hcode]; rfl

end Sys2Proof.Machine
end

section
/-! The address of each addressing mode, where it lies, and the instructions that cannot leave Memory (spec/41_addressing.md). -/

namespace Sys2Proof.Machine

/-! ### The direct modes, in any configuration -/

section
variable (s : State) (b : Byte)

/-- R123: the sum wraps in the zero page, with X as the index. -/
theorem effectiveAddress_zpx : s.effectiveAddress (.zpx b) = .ok ((b.toNat + s.regX.toNat) % 256) :=
  congrArg Except.ok (BitVec.toNat_add b s.regX)

/-- R124: the sum wraps in the zero page, with Y as the index. -/
theorem effectiveAddress_zpy : s.effectiveAddress (.zpy b) = .ok ((b.toNat + s.regY.toNat) % 256) :=
  congrArg Except.ok (BitVec.toNat_add b s.regY)

/-- R125, with the address as the decoder assembles it. -/
theorem effectiveAddress_abs_wordOf (lo hi : Byte) :
    s.effectiveAddress (.abs (wordOf lo hi)) = .ok (lo.toNat + 256 * hi.toNat) :=
  congrArg Except.ok (toNat_wordOf lo hi)

/-- R120: `Resolve` of a mode with an effective address. -/
theorem resolve_mem (m : AddrMode) (ea : Nat) (h : s.effectiveAddress m = .ok ea) : s.resolve (.mem m) = .ok (.addr ea) := by
  simp [State.resolve, h]

end

/-! ### Pointers, by their width (R128) -/

section
variable (s : State) (p : Byte)

theorem pointerAt_of_one (h : s.cfg.pointerBytes = .one) : pointerAt s p = (s.mem.read p.toNat).toNat := by
  simp [pointerAt, h]

theorem pointerAt_of_two (h : s.cfg.pointerBytes = .two) :
    pointerAt s p = (s.mem.read p.toNat).toNat + 256 * (s.mem.read ((p.toNat + 1) % 256)).toNat := by
  simp [pointerAt, h]

theorem pointerAt_lt_of_one (h : s.cfg.pointerBytes = .one) : pointerAt s p < 256 := by
  rw [pointerAt_of_one s p h]
  exact BitVec.isLt _

theorem pointerAt_lt : pointerAt s p < 65536 := by
  cases h : s.cfg.pointerBytes with
  | one => exact Nat.lt_trans (pointerAt_lt_of_one s p h) (by decide)
  | two =>
    rw [pointerAt_of_two s p h]
    have hlo := (s.mem.read p.toNat).isLt
    have hhi := (s.mem.read ((p.toNat + 1) % 256)).isLt
    omega

end

/-! ### Modes whose address always exists -/

/-- R131: whether a mode can name an address at or above MEM_SIZE; `mayLeaveMemory_eq` ties it to the model. -/
def AddrMode.mayLeave (cfg : Config) : AddrMode → Bool
  | .zp _ => false
  | .zpx _ => false
  | .zpy _ => false
  | .abs _ => decide (cfg.memSize < 65536)
  | .absx _ => true
  | .absy _ => true
  | .indx _ => decide (cfg.pointerBytes = .two) && decide (cfg.memSize < 65536)
  | .indy _ => decide (cfg.pointerBytes = .two) || decide (cfg.memSize < 0x1FF)

/-- R131: the largest address of each mode not in the list is below MEM_SIZE. -/
theorem addressOf_lt (s : State) (m : AddrMode) (hsize : 256 ≤ s.cfg.memSize) (h : m.mayLeave s.cfg = false) :
    addressOf s m < s.cfg.memSize := by
  cases m with
  | zp b => exact Nat.lt_of_lt_of_le b.isLt hsize
  | zpx b | zpy b => exact Nat.lt_of_lt_of_le (Nat.mod_lt _ (by decide)) hsize
  | abs w => exact Nat.lt_of_lt_of_le w.isLt (Nat.le_of_not_lt (of_decide_eq_false h))
  | absx w | absy w => cases h
  | indx b =>
    cases hw : s.cfg.pointerBytes with
    | one => exact Nat.lt_of_lt_of_le (pointerAt_lt_of_one s _ hw) hsize
    | two =>
      have hfull : 65536 ≤ s.cfg.memSize := by simpa [AddrMode.mayLeave, hw] using h
      exact Nat.lt_of_lt_of_le (pointerAt_lt s _) hfull
  | indy b =>
    simp only [AddrMode.mayLeave, Bool.or_eq_false_iff, decide_eq_false_iff_not] at h
    obtain ⟨htwo, hbound⟩ := h
    have hone : s.cfg.pointerBytes = .one := by
      cases hw : s.cfg.pointerBytes with
      | one => rfl
      | two => exact absurd hw htwo
    have hptr := pointerAt_lt_of_one s b hone
    have hY := s.regY.isLt
    simp only [addressOf]
    omega

/-! ### The access of a meaning -/

/-- The mode of an operand that is read at an address. -/
def Operand.mode : Operand → Option AddrMode
  | .imm _ => none
  | .mem m => some m

/-- The mode through which a meaning accesses Memory; `mayLeaveMemory_eq` ties it to the model. -/
def Meaning.mode : Meaning → Option AddrMode
  | .load _ o => o.mode
  | .store _ m => some m
  | .transfer _ _ => none
  | .adc o => o.mode
  | .emitCell b => some (.zp b)
  | .emitA => none

theorem mayLeaveMemory_eq (cfg : Config) (i : Instr) :
    mayLeaveMemory cfg i = (meaningOf i).mode.any (·.mayLeave cfg) := by
  cases i <;> rfl

section
variable (s : State) (hsize : 256 ≤ s.cfg.memSize)
include hsize

theorem operandValue_of_mode_inRange (o : Operand) (h : ∀ a ∈ o.mode, addressOf s a < s.cfg.memSize) :
    ∃ v, s.operandValue o = .ok v := by
  cases o with
  | imm v => exact ⟨v, rfl⟩
  | mem a => exact ⟨_, operandValue_ok s a hsize (h a rfl)⟩

/-- 60_exceptions.md R240: without an address out of range, an instruction completes. -/
theorem Meaning.completes_of_mode_inRange (m : Meaning) (h : ∀ a ∈ m.mode, addressOf s a < s.cfg.memSize) :
    ∃ t, m.run s = .next t ∧ m.Completes s t := by
  cases m with
  | load r o =>
    obtain ⟨v, hv⟩ := operandValue_of_mode_inRange s hsize o h
    exact ⟨_, by rw [run, load_eq, hv]; rfl, .load r o v hv⟩
  | store r a => exact ⟨_, store_next r a s hsize (h a rfl), .store r a _ (effectiveAddress_ok s a hsize) (h a rfl)⟩
  | transfer src dst => exact ⟨_, rfl, .transfer src dst⟩
  | adc o =>
    obtain ⟨v, hv⟩ := operandValue_of_mode_inRange s hsize o h
    exact ⟨_, by rw [run, adc_eq, hv]; rfl, .adc o v hv⟩
  | emitCell b =>
    have hv := operandValue_ok s (.zp b) hsize (h _ rfl)
    exact ⟨_, by rw [run, emitCell_eq, hv]; rfl, .emitCell b _ hv⟩
  | emitA => exact ⟨_, rfl, .emitA⟩

end

end Sys2Proof.Machine

namespace Sys2Proof

/-! ### The operand bytes the decoder takes (30_encoding.md R83) -/

theorem decode_oneOperandByte (cfg : Config) (op b : Byte) (r : List Byte) (mk : Byte → Instr)
    (h : recognise cfg op = some (.f2 mk)) : decode cfg (op :: b :: r) = .instr (mk b) r :=
  decode_cons cfg op _ _ h

theorem decode_twoOperandBytes (cfg : Config) (op lo hi : Byte) (r : List Byte) (mk : Word → Instr)
    (h : recognise cfg op = some (.f3 mk)) : decode cfg (op :: lo :: hi :: r) = .instr (mk (wordOf lo hi)) r :=
  decode_cons cfg op _ _ h

end Sys2Proof
end

section
/-! The statements on addressing. -/

namespace Sys2Proof.Machine

/-- Settles O25: every address of the mode exists, so the instruction completes. -/
theorem addressFaultsOnlyWhereTheModeAllows : Obligations.AddressFaultsOnlyWhereTheModeAllows := by
  intro i s t hcfg hstay hexec
  have hsize := (wellFormed_memSize s.cfg hcfg).1
  rw [mayLeaveMemory_eq, Option.any_eq_false] at hstay
  obtain ⟨u, hu, hc⟩ := (meaningOf i).completes_of_mode_inRange s hsize fun a ha =>
    addressOf_lt s a hsize (by simpa using hstay a ha)
  rw [exec_eq_run, hu] at hexec
  cases hexec
  exact ⟨hc.sameRun.fault, hc.sameRun.phase, operands_length i ▸ hc.cursor⟩

/-- Settles O46: the resolver answers the address of each mode, and a pointer is read as its width says. -/
theorem indexedAndIndirectModesResolve : Obligations.IndexedAndIndirectModesResolve := by
  intro s b w hcfg
  have hok (m : AddrMode) := effectiveAddress_ok s m (wellFormed_memSize s.cfg hcfg).1
  refine ⟨hok (.absx w), hok (.absy w), fun hone => ⟨?_, ?_⟩, fun htwo => ⟨?_, ?_⟩⟩
  · rw [hok, addressOf, pointerAt_of_one s _ hone, BitVec.toNat_add]
  · rw [hok, addressOf, pointerAt_of_one s _ hone]
  · rw [hok, addressOf, pointerAt_of_two s _ htwo, BitVec.toNat_add, Nat.mod_add_mod]
  · rw [hok, addressOf, pointerAt_of_two s _ htwo]

/-- Settles O45: the resolver answers without a read, and the decoder reads the operand bytes as the form says. -/
theorem directModesResolve : Obligations.DirectModesResolve := by
  intro s m b lo hi
  have hbound : lo.toNat + 256 * hi.toNat ≤ 0xFFFF := toNat_wordOf lo hi ▸ Nat.le_of_lt_succ (wordOf lo hi).isLt
  exact ⟨rfl, rfl, Nat.le_of_lt_succ b.isLt, resolve_mem _ _ _ (effectiveAddress_zpx _ b),
    resolve_mem _ _ _ (effectiveAddress_zpy _ b), resolve_mem _ _ _ (effectiveAddress_abs_wordOf _ lo hi), hbound,
    rfl, rfl, rfl, rfl, rfl, fun cfg op r =>
      ⟨fun mk => decode_oneOperandByte cfg op b r mk, fun mk => decode_twoOperandBytes cfg op lo hi r mk⟩⟩

end Sys2Proof.Machine
end

section
/-! The statement on the register transfers (spec/44_transfer.md). -/

namespace Sys2Proof.Machine

/-- 42_load.md R140, 44_transfer.md R190: `State.loaded` has the one effect the loads and the transfers share. -/
theorem loaded_loadEffect (s : State) (r : Reg) (v : Byte) (n : Nat) : LoadEffect r v n s (s.loaded r v n) where
  dest := by simp
  others := fun q hq => by simp [hq]
  zero := flagOf_setZN_z s.regP v
  negative := flagOf_setZN_n s.regP v
  otherBits := fun k h1 h7 => by rw [loaded_regP, getLsbD_setZN, if_neg h7, if_neg h1]
  mem := loaded_mem s r v n
  out := loaded_out s r v n
  cursor := (loaded_cursor s r v n).trans (Nat.add_right_comm s.cursor n 1)
  run := loaded_sameRun s r v n

/-- 44_transfer.md R190: an instruction that transfers `src` to `dst` completes in every state, with the effect of a load of
`src`, and is its opcode byte alone. -/
theorem exec_of_transfer (s : State) (i : Instr) (src dst : Reg) (op : Byte) (hi : meaningOf i = .transfer src dst)
    (hop : i.opcode s.cfg = some op) :
    ∃ t, exec i s = .next t ∧ LoadEffect dst (s.reg src) 0 s t ∧ i.opcode s.cfg = some op ∧ i.operands = [] := by
  have hrun : exec i s = .next (s.loaded dst (s.reg src) 0) := by rw [exec_eq_run, hi]; rfl
  have hoperands : i.operands.length = 0 := by rw [operands_length, hi]; rfl
  exact ⟨_, hrun, loaded_loadEffect s dst (s.reg src) 0, hop, List.eq_nil_of_length_eq_zero hoperands⟩

/-- Settles O17: each of the six is a transfer by its meaning, and its opcode byte stands in the opcode map. -/
theorem transferResults : Obligations.TransferResults := fun s =>
  ⟨exec_of_transfer s .tax .a .x 0xAA#8 rfl rfl, exec_of_transfer s .tay .a .y 0xA8#8 rfl rfl,
    exec_of_transfer s .tsx .s .x 0xBA#8 rfl rfl, exec_of_transfer s .txa .x .a 0x8A#8 rfl rfl,
    exec_of_transfer s .txs .x .s 0x9A#8 rfl rfl, exec_of_transfer s .tya .y .a 0x98#8 rfl rfl⟩

end Sys2Proof.Machine
end

section
/-! What `ADD` does to each field, and when two additions agree (spec/45_adc.md section 1). -/

namespace Sys2Proof.Machine

/-! ### The sum and the flags as functions of P, A and the operand -/

section
variable (p q a v w : Byte)

/-- R210 (c): the sum does not tell the accumulator from the operand. -/
theorem adcSum_comm : adcSum p a v = adcSum p v a := by
  simp only [adcSum, Nat.add_comm]

/-- R210 (b): a carry in counts one. -/
theorem adcSum_setCarry (hv : v ≠ 0xFF#8) :
    adcSum (setFlag p .c true) a v = adcSum (setFlag p .c false) a (v + 1#8) := by
  have hsucc : (v + 1#8).toNat = v.toNat + 1 := by bv_omega
  simp only [adcSum, flagOf_setFlag, if_true, hsucc, Bool.toNat_true, Bool.toNat_false]
  omega

/-- R210 (d): adding zero without a carry leaves the accumulator as the sum. -/
theorem adcSum_zero (hC : flagOf p .c = false) : adcSum p a 0#8 = a.toNat := by
  simp [adcSum, hC]

variable {p q a v w}

/-- R200: the stored byte depends on the sum alone. -/
theorem adcResult_congr {b : Byte} (hsum : adcSum p a v = adcSum q b w) : adcResult p a v = adcResult q b w :=
  congrArg (BitVec.ofNat 8) hsum

/-- R200, R201: the four flags depend on the old A and the sum, and bits 2 to 5 on themselves. -/
theorem getLsbD_adcFlags_congr (hsum : adcSum p a v = adcSum q a w) (k : Nat)
    (hk : 2 ≤ k → k ≤ 5 → p.getLsbD k = q.getLsbD k) :
    (adcFlags p a v).getLsbD k = (adcFlags q a w).getLsbD k := by
  rw [getLsbD_adcFlags, getLsbD_adcFlags, adcResult_congr hsum, hsum]
  split_ifs with h7 h6 h1 h0
  · rfl
  · rfl
  · rfl
  · rfl
  · obtain hlt | hge := Nat.lt_or_ge k 8
    · exact hk (by omega) (by omega)
    · rw [BitVec.getLsbD_of_ge p k hge, BitVec.getLsbD_of_ge q k hge]

end

/-! ### The flags of the state after `ADD` -/

section
variable (s : State) (v : Byte)

theorem add_flag_c : (s.add v).flag .c = decide (255 < adcSum s.regP s.regA v) := flagOf_adcFlags_c _ _ _

/-- 90_conflicts.md C1: Z is of the old accumulator. -/
theorem add_flag_z : (s.add v).flag .z = decide (s.regA = 0#8) := flagOf_adcFlags_z _ _ _

/-- 90_conflicts.md C2: V compares the old accumulator with the result, not with the operand. -/
theorem add_flag_v : (s.add v).flag .v = (s.regA.getLsbD 7 != (s.add v).regA.getLsbD 7) := flagOf_adcFlags_v _ _ _

theorem add_flag_n : (s.add v).flag .n = (s.add v).regA.getLsbD 7 := flagOf_adcFlags_n _ _ _

theorem add_flag_v_iff : (s.add v).flag .v = true ↔ s.regA.getLsbD 7 ≠ (s.add v).regA.getLsbD 7 := by
  rw [add_flag_v, bne_iff_ne]

end

/-! ### Two additions with one sum -/

section
variable (s : State) (p q v w : Byte) (hsum : adcSum p s.regA v = adcSum q s.regA w)
include hsum

/-- R200: with bits 2 to 5 of P alike, one sum makes one state. -/
theorem add_eq_of_adcSum_eq (hP : ∀ k, 2 ≤ k → k ≤ 5 → p.getLsbD k = q.getLsbD k) :
    { s with regP := p }.add v = { s with regP := q }.add w := by
  have hA : adcResult p s.regA v = adcResult q s.regA w := adcResult_congr hsum
  have hflags : adcFlags p s.regA v = adcFlags q s.regA w :=
    BitVec.eq_of_getLsbD_eq fun k _ => getLsbD_adcFlags_congr hsum k (hP k)
  simp only [State.add, hA, hflags]
  rfl

/-- R201: whatever bits 2 to 5 of P hold, one sum makes one A and the same four flags. -/
theorem add_flag_eq_of_adcSum_eq (f : Flag) : ({ s with regP := p }.add v).flag f = ({ s with regP := q }.add w).flag f := by
  refine getLsbD_adcFlags_congr hsum f.bit fun h2 h5 => ?_
  cases f <;> simp [Flag.bit] at h2 h5

end

/-! ### ADC through an operand -/

/-- 45_adc.md R200, R202 to R209: the effect of `ADD` and of the cursor that passes `n` operand bytes. -/
theorem add_adcEffect (s : State) (v : Byte) (n : Nat) : AdcEffect v n s ((s.add v).advance n) where
  result := toNat_adcResult s.regP s.regA v
  others := fun q hq => by simp [hq]
  carry := add_flag_c s v
  zero := add_flag_z s v
  overflow := add_flag_v s v
  negative := add_flag_n s v
  otherBits := adcFlags_unused s.regP s.regA v
  mem := rfl
  out := rfl
  cursor := Nat.add_right_comm s.cursor n 1
  run := ⟨rfl, rfl, rfl, rfl, rfl, rfl⟩

/-- 45_adc.md R203 to R209: ADC of a cell that exists. -/
theorem adc_mem_adcEffect (s : State) (hsize : 256 ≤ s.cfg.memSize) (m : AddrMode) (ha : addressOf s m < s.cfg.memSize) :
    ∃ t, adc (.mem m) s = .next t ∧ AdcEffect (s.mem.read (addressOf s m)) m.operandBytes s t :=
  ⟨_, adc_next m s hsize ha, add_adcEffect s _ _⟩

end Sys2Proof.Machine
end

section
/-! The statements on ADC (spec/45_adc.md). -/

namespace Sys2Proof.Machine

/-- Settles O18: each form is ADC of an immediate byte or through one mode, whose address exists. -/
theorem adcResults : Obligations.AdcResults := by
  intro s hcfg
  have hsize := (wellFormed_memSize s.cfg hcfg).1
  have hmem := adc_mem_adcEffect s hsize
  exact ⟨fun v => ⟨_, rfl, add_adcEffect s v 1⟩,
    fun b => hmem (.zp b) (addressOf_lt s _ hsize rfl), fun b => hmem (.zpx b) (addressOf_lt s _ hsize rfl),
    fun w => hmem (.abs w), fun w => hmem (.absx w), fun w => hmem (.absy w),
    fun b => hmem (.indx b), fun b => hmem (.indy b)⟩

/-- Settles O8: the stored byte is the sum mod 256, and each flag is the one `adcFlags` gives it. -/
theorem addFollowsItsAlgorithm : Obligations.AddFollowsItsAlgorithm := by
  intro s v
  refine ⟨toNat_adcResult _ _ _, ?_, ?_, add_flag_v_iff s v, add_flag_n s v, adcFlags_unused _ _ _, rfl⟩
  · rw [add_flag_c, decide_eq_true_iff]
    rfl
  · rw [add_flag_z, decide_eq_true_iff]

/-- Settles O9: the laws of the sum, carried to A and the flags; 0x00 + 0x80 shows that Z and V read the old A alone and that
addends of opposite sign can set V. -/
theorem addObeysTheArithmeticLaws : Obligations.AddObeysTheArithmeticLaws := by
  refine ⟨fun s v hv => ?_, fun s v => ?_, ⟨State.reset, 0x80#8, by decide⟩, fun s hC => ?_, fun s v hsign hres => ?_,
    ⟨State.reset, 0x80#8, by decide⟩⟩
  · refine add_eq_of_adcSum_eq s _ _ v (v + 1#8) (adcSum_setCarry _ _ _ hv) fun k h2 _ => ?_
    have hk : k ≠ Flag.bit .c := Nat.ne_of_gt (Nat.lt_of_lt_of_le (by decide) h2)
    rw [getLsbD_setFlag, getLsbD_setFlag, if_neg hk, if_neg hk]
  · have hsum := adcSum_comm s.regP s.regA v
    refine ⟨adcResult_congr hsum, ?_⟩
    rw [add_flag_c, add_flag_c, hsum]
  · have hsum : adcSum s.regP s.regA 0#8 = s.regA.toNat := adcSum_zero _ _ hC
    have hA : (s.add 0#8).regA = s.regA := by rw [add_regA, adcResult, hsum, BitVec.ofNat_toNat, BitVec.setWidth_eq]
    have hcarry : ¬ 255 < s.regA.toNat := Nat.not_lt.2 (Nat.le_of_lt_succ s.regA.isLt)
    refine ⟨hA, ?_, ?_, add_flag_z s _, ?_⟩
    · rw [add_flag_c, hsum, decide_eq_false hcarry]
    · rw [add_flag_v, hA, bne_self_eq_false]
    · rw [add_flag_n, hA]
  · rw [add_flag_v_iff, hsign]
    exact hres.symm

/-- Settles O10: the sum reads the carry alone, and A and the four flags follow from it. -/
theorem addIgnoresTheUnusedBits : Obligations.AddIgnoresTheUnusedBits := by
  intro s p v hC
  have hsum := adcSum_congr p s.regP s.regA v hC
  exact ⟨adcResult_congr hsum, add_flag_eq_of_adcSum_eq s p s.regP v v hsum⟩

end Sys2Proof.Machine
end

section
/-! The statements on the diagnostic opcodes (spec/46_diagnostic.md). -/

namespace Sys2Proof.Machine

/-- 46_diagnostic.md R220, R221, R223: a byte emitted, and the cursor past `n` operand bytes. -/
theorem emit_emitEffect (s : State) (v : Byte) (n : Nat) : EmitEffect v n s ((s.emit v).advance n) where
  emitted := rfl
  registers := fun q => by simp
  flags := rfl
  mem := rfl
  cursor := Nat.add_right_comm s.cursor n 1
  run := ⟨rfl, rfl, rfl, rfl, rfl, rfl⟩

/-- R220: the cell of a zero-page address is read, for it exists in every Memory of at least 256 cells (20_memory.md R54). -/
theorem emitCell_next (s : State) (b : Byte) (hsize : 256 ≤ s.cfg.memSize) :
    emitCell b s = .next ((s.emit (s.mem.read b.toNat)).advance 1) := by
  rw [emitCell_eq, operandValue_ok s (.zp b) hsize (addressOf_lt s _ hsize rfl)]
  rfl

/-- 30_encoding.md R85: in an admitted configuration the byte of DIAGZP is outside OPCODE_SET, so it is DIAGZP's. -/
theorem recognise_diagZp_of_wellFormed (cfg : Config) (d : Byte) (hc : cfg.wellFormed = true)
    (hz : cfg.diagZpOpcode = some d) : recognise cfg d = some (.f2 .diagzp) := by
  obtain ⟨-, -, -, hzp, -, -⟩ := (wellFormed_iff cfg).1 hc
  exact recognise_diagZp cfg d (fun hset => hzp d hset hz) hz

/-- R85: in an admitted configuration the byte of DIAGA is outside OPCODE_SET and not the byte of DIAGZP, so it is DIAGA's. -/
theorem recognise_diagA_of_wellFormed (cfg : Config) (d : Byte) (hc : cfg.wellFormed = true)
    (ha : cfg.diagAOpcode = some d) : recognise cfg d = some (.f1 .diaga) := by
  obtain ⟨-, -, -, -, hA, hdiffer⟩ := (wellFormed_iff cfg).1 hc
  refine recognise_diagA cfg d (fun hset => hA d hset ha) (fun hz => ?_) ha
  obtain hnone | hne := hdiffer
  · exact Option.some_ne_none d (hz.symm.trans hnone)
  · exact hne (hz.trans ha.symm)

/-- Settles O19: DIAGZP emits a cell that exists, DIAGA the accumulator. -/
theorem diagnosticResults : Obligations.DiagnosticResults := fun s =>
  ⟨fun hcfg b => ⟨_, emitCell_next s b (wellFormed_memSize s.cfg hcfg).1, emit_emitEffect s _ 1⟩,
    _, rfl, emit_emitEffect s s.regA 0⟩

/-- Settles O20: the byte decodes to its diagnostic instruction, and a step runs the instruction it decodes. -/
theorem configuredDiagnosticOpcodesRun : Obligations.ConfiguredDiagnosticOpcodesRun := by
  intro s d r hc hp
  obtain ⟨hdiagzp, hdiaga⟩ := diagnosticResults s
  have hrun := stepRunsTheDecodedInstruction s
  refine ⟨fun b hz hcode => ?_, fun ha hcode => ?_⟩
  · have hop := recognise_diagZp_of_wellFormed s.cfg d hc hz
    rw [hrun (.diagzp b) r hc hp (hcode ▸ decode_oneOperandByte _ d b r _ hop)]
    exact hdiagzp hc b
  · have hop := recognise_diagA_of_wellFormed s.cfg d hc ha
    rw [hrun .diaga r hc hp (hcode ▸ decode_cons _ d r _ hop)]
    exact hdiaga

end Sys2Proof.Machine
end

section
/-! The statements on the faults of instructions (spec/60_exceptions.md). -/

namespace Sys2Proof.Machine

/-- Settles O24: an instruction that completes keeps the Run and passes its own bytes, and any other takes its address fault. -/
theorem instructionsCompleteOrTakeAddressFault : Obligations.InstructionsCompleteOrTakeAddressFault := by
  intro i s
  obtain ⟨t, hexec, hc | ⟨ea, k, hea, rfl⟩⟩ := exec_cases i s
  · exact ⟨t, hexec, .inl ⟨hc.sameRun, operands_length i ▸ hc.cursor⟩⟩
  · exact ⟨_, hexec, .inr ⟨ea, k, s.opcodeByte, hea, rfl⟩⟩

/-- Settles O26: of the outcomes of a step of a Run only the fault that is taken ends in a faulted state, and it is taken at a byte
of code. -/
theorem faultsArePrecise : Obligations.FaultsArePrecise := by
  intro s t hp hstep hend
  obtain ⟨hcfg, -⟩ := step_cases s t hstep
  rw [step_running s hcfg hp] at hstep
  obtain ⟨-, rfl⟩ | ⟨hlt, k, rfl⟩ | ⟨hrun, -⟩ := stepRun_outcomes s t hstep
  · cases hend
  · have hbyte := code_at_cursor s hlt
    exact ⟨k, s.opcodeByte, hbyte, takeFault_eq_faultedFrom s _ hbyte k⟩
  · cases hp.symm.trans (hrun.phase.symm.trans hend)

end Sys2Proof.Machine
end

section
/-! The statement on the values after reset (spec/70_reset_and_hazards.md section 1). -/

namespace Sys2Proof.Machine

/-- 70_reset_and_hazards.md R260: construction clears A, X, Y and S, whatever the configuration and the Memory. -/
@[simp] theorem construct_reg (cfg : Config) (m : Memory) (q : Reg) : (State.construct cfg m).reg q = 0x00#8 := by
  cases q with
  | a | x | y | s => rfl

/-- R261: a fresh Memory lists no cell, so every address reads the fill (20_memory.md R51, D10). -/
theorem reset_mem_read (addr : Nat) : State.reset.mem.read addr = unlistedByte :=
  Memory.read_unlisted [] addr (List.forall_mem_nil _)

/-- Settles O35: the registers and the Memory fill by their lemmas; every other clause is a field of the construction or of the
default configuration. -/
theorem resetValues : Obligations.ResetValues :=
  have hregisters : ∀ q, State.reset.reg q = 0x00#8 := construct_reg Config.default []
  have hflags : ∀ cfg mem, (State.construct cfg mem).regP = cfg.pReset := fun _ _ => rfl
  ⟨hregisters, hflags Config.default [], rfl, reset_mem_read, rfl, rfl, rfl, rfl, rfl, rfl, rfl, rfl, hflags⟩

end Sys2Proof.Machine
end

section
/-! The decoder and the encoder as two readings of one relation between an instruction and its bytes (spec/30_encoding.md R80 to R85). -/

namespace Sys2Proof

/-! ### What a form makes of its operand bytes -/

/-- R83: the instructions of a form, each with the operand bytes it is made from; `Form.read_eq_instr_iff` ties it to the decoder. -/
inductive Form.Makes : Form → Instr → List Byte → Prop
  | none (i : Instr) : Makes (.f1 i) i []
  | byte (mk : Byte → Instr) (b : Byte) : Makes (.f2 mk) (mk b) [b]
  | word (mk : Word → Instr) (lo hi : Byte) : Makes (.f3 mk) (mk (wordOf lo hi)) [lo, hi]

/-- 20_memory.md R58: a word operand is made from its low and its high byte. -/
theorem Form.Makes.lowHigh (mk : Word → Instr) (w : Word) : (Form.f3 mk).Makes (mk w) [lowByte w, highByte w] := by
  simpa using Makes.word mk (lowByte w) (highByte w)

theorem Form.read_eq_instr_iff (f : Form) (op : Byte) (r rest : List Byte) (i : Instr) :
    f.read op r = .instr i rest ↔ ∃ operands, f.Makes i operands ∧ r = operands ++ rest := by
  constructor
  · intro h
    unfold read at h
    split at h <;> cases h
    · exact ⟨[], .none i, rfl⟩
    · exact ⟨_, .byte _ _, rfl⟩
    · exact ⟨_, .word _ _ _, rfl⟩
  · rintro ⟨operands, hmakes, rfl⟩
    cases hmakes <;> rfl

/-- R82, R83: an instruction is decoded from its opcode byte, the operand bytes of its form, and nothing more. -/
theorem decode_eq_instr_iff (cfg : Config) (bytes rest : List Byte) (i : Instr) :
    decode cfg bytes = .instr i rest ↔
      ∃ op f operands, recognise cfg op = some f ∧ f.Makes i operands ∧ bytes = op :: operands ++ rest := by
  constructor
  · intro h
    cases bytes with
    | nil => cases h
    | cons op r =>
      cases hop : recognise cfg op with
      | none => rw [decode_unrecognised cfg op r hop] at h; cases h
      | some f =>
        rw [decode_cons cfg op r f hop] at h
        obtain ⟨operands, hmakes, rfl⟩ := (f.read_eq_instr_iff op r rest i).1 h
        exact ⟨op, f, operands, hop, hmakes, rfl⟩
  · rintro ⟨op, f, operands, hop, hmakes, rfl⟩
    exact (decode_cons cfg op _ f hop).trans ((f.read_eq_instr_iff op _ rest i).2 ⟨operands, hmakes, rfl⟩)

/-! ### The opcode map against the encoder's tables (R84) -/

/-- Every instruction of a row of the map has the opcode byte of that row, and as operand bytes those it was made from. -/
theorem encoding_of_tableForm (cfg : Config) (op : Byte) (f : Form) (i : Instr) (operands : List Byte)
    (h : tableForm op = some f) (hmakes : f.Makes i operands) : i.opcode cfg = some op ∧ i.operands = operands := by
  unfold tableForm at h
  split at h <;> cases h <;> cases hmakes <;> exact ⟨rfl, by simp [Instr.operands]⟩

/-- Every instruction but the diagnostic ones is made by the row of its opcode byte from its operand bytes. -/
theorem tableForm_of_opcode (cfg : Config) (i : Instr) (op : Byte) (hi : i.isDiagnostic = false)
    (h : i.opcode cfg = some op) : ∃ f, tableForm op = some f ∧ f.Makes i i.operands := by
  cases i with
  | tax | tay | tsx | txa | txs | tya => cases h; exact ⟨_, rfl, .none _⟩
  | ldaImm b | ldaZp b | ldaZpx b | ldaIndx b | ldaIndy b | ldxImm b | ldxZp b | ldxZpy b | ldyImm b | ldyZp b | ldyZpx b
  | staZp b | staZpx b | staIndx b | staIndy b | stxZp b | stxZpy b | styZp b | styZpx b
  | adcImm b | adcZp b | adcZpx b | adcIndx b | adcIndy b => cases h; exact ⟨_, rfl, .byte _ b⟩
  | ldaAbs w | ldaAbsx w | ldaAbsy w | ldxAbs w | ldxAbsy w | ldyAbs w | ldyAbsx w | staAbs w | staAbsx w | staAbsy w
  | stxAbs w | styAbs w | adcAbs w | adcAbsx w | adcAbsy w => cases h; exact ⟨_, rfl, .lowHigh _ w⟩
  | diagzp b | diaga => cases hi

/-! ### The configuration's part (R85) -/

/-- An instruction a configuration has: its opcode byte is in OPCODE_SET, or it is a diagnostic instruction. -/
theorem Instr.wellFormed_iff (cfg : Config) (i : Instr) :
    i.wellFormed cfg = true ↔ ∃ op, i.opcode cfg = some op ∧ (i.isDiagnostic = true ∨ op ∈ cfg.opcodeSet) := by
  unfold Instr.wellFormed
  cases i.opcode cfg <;> simp

theorem encode_of_opcode (cfg : Config) (i : Instr) (op : Byte) (h : i.opcode cfg = some op) :
    encode cfg i = some (op :: i.operands) :=
  congrArg (Option.map (· :: i.operands)) h

/-- Everything that makes a configuration recognise an opcode byte. -/
theorem recognise_cases (cfg : Config) (op : Byte) (f : Form) (h : recognise cfg op = some f) :
    (op ∈ cfg.opcodeSet ∧ tableForm op = some f) ∨ (cfg.diagZpOpcode = some op ∧ f = .f2 .diagzp) ∨
      (cfg.diagAOpcode = some op ∧ f = .f1 .diaga) := by
  unfold recognise at h
  split_ifs at h with hset hz ha
  · exact .inl ⟨hset, h⟩
  · exact .inr (.inl ⟨hz, (Option.some.inj h).symm⟩)
  · exact .inr (.inr ⟨ha, (Option.some.inj h).symm⟩)

/-- In any configuration, what the decoder makes of an opcode byte is what the encoder gives that byte. -/
theorem encoding_of_recognise (cfg : Config) (op : Byte) (f : Form) (i : Instr) (operands : List Byte)
    (h : recognise cfg op = some f) (hmakes : f.Makes i operands) :
    i.opcode cfg = some op ∧ i.operands = operands ∧ (i.isDiagnostic = true ∨ op ∈ cfg.opcodeSet) := by
  obtain ⟨hset, htable⟩ | ⟨hz, rfl⟩ | ⟨ha, rfl⟩ := recognise_cases cfg op f h
  · obtain ⟨hop, hoperands⟩ := encoding_of_tableForm cfg op f i operands htable hmakes
    exact ⟨hop, hoperands, .inr hset⟩
  · cases hmakes
    exact ⟨hz, rfl, .inl rfl⟩
  · cases hmakes
    exact ⟨ha, rfl, .inl rfl⟩

end Sys2Proof

namespace Sys2Proof.Machine

/-- In an admitted configuration, what the encoder gives an opcode byte is what the decoder makes of it. -/
theorem recognise_of_encoding (cfg : Config) (hc : cfg.wellFormed = true) (i : Instr) (op : Byte)
    (hop : i.opcode cfg = some op) (hset : i.isDiagnostic = true ∨ op ∈ cfg.opcodeSet) :
    ∃ f, recognise cfg op = some f ∧ f.Makes i i.operands := by
  cases hi : i.isDiagnostic with
  | false =>
    have hmem : op ∈ cfg.opcodeSet := by simpa [hi] using hset
    obtain ⟨f, hf, hmakes⟩ := tableForm_of_opcode cfg i op hi hop
    exact ⟨f, (recognise_of_mem cfg op hmem).trans hf, hmakes⟩
  | true =>
    cases i with
    | diagzp b => exact ⟨_, recognise_diagZp_of_wellFormed cfg op hc hop, .byte _ b⟩
    | diaga => exact ⟨_, recognise_diagA_of_wellFormed cfg op hc hop, .none _⟩
    | _ => cases hi

/-- Settles O2: the decoder recognises the opcode byte by the form that makes the instruction from its operand bytes. -/
theorem encodedInstructionsDecodeBack : Obligations.EncodedInstructionsDecodeBack := by
  intro cfg i rest hc hi
  obtain ⟨op, hop, hset⟩ := (i.wellFormed_iff cfg).1 hi
  obtain ⟨f, hf, hmakes⟩ := recognise_of_encoding cfg hc i op hop hset
  exact ⟨op :: i.operands, encode_of_opcode cfg i op hop,
    (decode_eq_instr_iff cfg _ rest i).2 ⟨op, f, i.operands, hf, hmakes, rfl⟩⟩

/-- Settles O3: the bytes are an opcode byte and the operand bytes the instruction was made from, as the encoder gives them. -/
theorem decodedBytesEncodeBack : Obligations.DecodedBytesEncodeBack := by
  intro cfg bytes i rest h
  obtain ⟨op, f, operands, hf, hmakes, rfl⟩ := (decode_eq_instr_iff cfg bytes rest i).1 h
  obtain ⟨hop, rfl, hset⟩ := encoding_of_recognise cfg op f i operands hf hmakes
  exact ⟨(i.wellFormed_iff cfg).2 ⟨op, hop, hset⟩, op :: i.operands, encode_of_opcode cfg i op hop, rfl⟩

end Sys2Proof.Machine
end

section
/-! The statements on the loads (spec/42_load.md). -/

namespace Sys2Proof.Machine

/-- 42_load.md R140: a load of a cell that exists. -/
theorem load_mem_loadEffect (s : State) (hsize : 256 ≤ s.cfg.memSize) (r : Reg) (m : AddrMode)
    (ha : addressOf s m < s.cfg.memSize) :
    ∃ t, load r (.mem m) s = .next t ∧ LoadEffect r (s.mem.read (addressOf s m)) m.operandBytes s t :=
  ⟨_, load_next r m s hsize ha, loaded_loadEffect s r _ _⟩

/-- Settles O11: each form loads A with an immediate byte or through one mode, whose address exists. -/
theorem ldaResults : Obligations.LdaResults := by
  intro s hcfg
  have hsize := (wellFormed_memSize s.cfg hcfg).1
  have hmem := load_mem_loadEffect s hsize .a
  exact ⟨fun v => ⟨_, rfl, loaded_loadEffect s .a v 1⟩,
    fun b => hmem (.zp b) (addressOf_lt s _ hsize rfl), fun b => hmem (.zpx b) (addressOf_lt s _ hsize rfl),
    fun w => hmem (.abs w), fun w => hmem (.absx w), fun w => hmem (.absy w),
    fun b => hmem (.indx b), fun b => hmem (.indy b)⟩

/-- Settles O12: each form loads X with an immediate byte or through one mode, whose address exists. -/
theorem ldxResults : Obligations.LdxResults := by
  intro s hcfg
  have hsize := (wellFormed_memSize s.cfg hcfg).1
  have hmem := load_mem_loadEffect s hsize .x
  exact ⟨fun v => ⟨_, rfl, loaded_loadEffect s .x v 1⟩,
    fun b => hmem (.zp b) (addressOf_lt s _ hsize rfl), fun b => hmem (.zpy b) (addressOf_lt s _ hsize rfl),
    fun w => hmem (.abs w), fun w => hmem (.absy w)⟩

/-- Settles O13: each form loads Y with an immediate byte or through one mode, whose address exists. -/
theorem ldyResults : Obligations.LdyResults := by
  intro s hcfg
  have hsize := (wellFormed_memSize s.cfg hcfg).1
  have hmem := load_mem_loadEffect s hsize .y
  exact ⟨fun v => ⟨_, rfl, loaded_loadEffect s .y v 1⟩,
    fun b => hmem (.zp b) (addressOf_lt s _ hsize rfl), fun b => hmem (.zpx b) (addressOf_lt s _ hsize rfl),
    fun w => hmem (.abs w), fun w => hmem (.absx w)⟩

end Sys2Proof.Machine
end

section
/-! The statements on the stores (spec/43_store.md). -/

namespace Sys2Proof.Machine

/-- 43_store.md R170: one cell of a canonical Memory written, and the cursor past `n` operand bytes. -/
theorem write_storeEffect (s : State) (hm : s.mem.wf = true) (ea : Nat) (v : Byte) (n : Nat) :
    StoreEffect ea v n s ({ s with mem := s.mem.write ea v }.advance n) where
  stored := (Memory.read_write s.mem ea v ea hm).trans (if_pos rfl)
  otherCells := fun addr hne => (Memory.read_write s.mem ea v addr hm).trans (if_neg hne)
  registers := fun q => by cases q <;> rfl
  flags := rfl
  out := rfl
  cursor := Nat.add_right_comm s.cursor n 1
  run := ⟨rfl, rfl, rfl, rfl, rfl, rfl⟩

/-- R170: a store to a cell that exists. -/
theorem store_storeEffect (s : State) (hsize : 256 ≤ s.cfg.memSize) (hm : s.mem.wf = true) (r : Reg) (m : AddrMode)
    (ha : addressOf s m < s.cfg.memSize) :
    ∃ t, store r m s = .next t ∧ StoreEffect (addressOf s m) (s.reg r) m.operandBytes s t :=
  ⟨_, store_next r m s hsize ha, write_storeEffect s hm _ _ _⟩

/-- Settles O14: each form stores A through one mode, whose address exists. -/
theorem staResults : Obligations.StaResults := by
  intro s hcfg hm
  have hsize := (wellFormed_memSize s.cfg hcfg).1
  have hstore := store_storeEffect s hsize hm .a
  exact ⟨fun b => hstore (.zp b) (addressOf_lt s _ hsize rfl), fun b => hstore (.zpx b) (addressOf_lt s _ hsize rfl),
    fun w => hstore (.abs w), fun w => hstore (.absx w), fun w => hstore (.absy w),
    fun b => hstore (.indx b), fun b => hstore (.indy b)⟩

/-- Settles O15: each form stores X through one mode, whose address exists. -/
theorem stxResults : Obligations.StxResults := by
  intro s hcfg hm
  have hsize := (wellFormed_memSize s.cfg hcfg).1
  have hstore := store_storeEffect s hsize hm .x
  exact ⟨fun b => hstore (.zp b) (addressOf_lt s _ hsize rfl), fun b => hstore (.zpy b) (addressOf_lt s _ hsize rfl),
    fun w => hstore (.abs w)⟩

/-- Settles O16: each form stores Y through one mode, whose address exists. -/
theorem styResults : Obligations.StyResults := by
  intro s hcfg hm
  have hsize := (wellFormed_memSize s.cfg hcfg).1
  have hstore := store_storeEffect s hsize hm .y
  exact ⟨fun b => hstore (.zp b) (addressOf_lt s _ hsize rfl), fun b => hstore (.zpx b) (addressOf_lt s _ hsize rfl),
    fun w => hstore (.abs w)⟩

end Sys2Proof.Machine
end

section
/-! The statement on the invariant at construction (spec/70_reset_and_hazards.md section 1). -/

namespace Sys2Proof.Machine

/-- Settles O36: reset is the construction in the default configuration on a Memory that lists no cell. -/
theorem resetIsGood : Obligations.ResetIsGood :=
  have hdefault : Config.default.wellFormed = true := by decide
  ⟨construct_good Config.default [] hdefault rfl rfl, construct_good⟩

end Sys2Proof.Machine
end
